-- ==== Sys2Proof/Word.lean ====
section
/-! DEFINITION. The word types of the block (spec/10_state.md R13, spec/00_scope.md R7, R9): every quantity is
unsigned, so every one is a bit vector, of a width the configuration names; and the two small enumerations every file uses. -/

namespace Sys2Proof

/-- TICK_W, the width of TCNT and of a duration (R7). The three widths of the configuration record stand here, and
nowhere else, because the types need them. Log entry 21. -/
abbrev Config.tickW : Nat := 16

/-- CNT_W, the width of each bit counter (R7). -/
abbrev Config.cntW : Nat := 8

/-- KEY_W, the width of a key code (R7, decision D10). -/
abbrev Config.keyW : Nat := 8

/-- A tick count or a duration: TICK_W bits (R7). -/
abbrev Ticks := BitVec Config.tickW

/-- A decoder's bit count: CNT_W bits (R7, R18, R22). -/
abbrev Count := BitVec Config.cntW

/-- A lookup code: the whole 32-bit address of a ROM (R37). -/
abbrev Code := BitVec 32

/-- A logical key code: KEY_W bits (R7, R24). -/
abbrev KeyCode := BitVec Config.keyW

/-- Which of the two protocol decoders, the `X` of spec/41_decoder_common.md. -/
inductive Side where
  | a
  | b
deriving DecidableEq, Repr

/-- What a PHASE register can hold between operations (R17, R21, R32 item 1).
ERROR (0b11) is transient and never held, so it is not a value of this type: R17 allows the three-valued type and
spec/93_implementation_defined.md U1 asks for it. DEDUCED, safe: log entry 7. -/
inductive Phase where
  | idle
  | header
  | data
deriving DecidableEq, Repr

end Sys2Proof
end

