-- ==== Sys2Proof/Config.lean ====
section
/-! DEFINITION. The configuration record (spec/00_scope.md R7, R8): every literal of the source and every open
parameter, kept out of the rules' code (decision D26). The open parameters KEYS, ROM_A and ROM_B are constants with
no body. -/

namespace Sys2Proof

/-- A timing window `(lo, hi)` of two 16-bit bounds, both excluded (R9, R72). -/
structure Window where
  lo : Ticks
  hi : Ticks
deriving DecidableEq, Repr

/-- The immutable descriptor of one decoder instance (R71). -/
structure Descriptor where
  /-- header-low, checked on the rising edge that ends the header's low pulse -/
  hl : Window
  /-- header-high, checked on the falling edge that ends the header's high gap -/
  hh : Window
  /-- data-short, bit 0 -/
  ds : Window
  /-- data-long, bit 1 -/
  dl : Window
  /-- WIDTH_X, the target number of data bits -/
  width : Count
  /-- SPLIT_X: the number of bits that go to the high accumulator; none where one accumulator takes all -/
  split : Option Count
deriving DecidableEq, Repr

/-- The result of a ROM lookup (R36): three kinds and no other, so that the word with `found = 0` and `key ≠ 0`
cannot be written down (R57). -/
inductive RomResult where
  | miss
  | ignored
  | hit (k : KeyCode)
deriving DecidableEq, Repr, Inhabited

/-- The parameters of R7, one record. The POLL schedule, R7's last row, is the environment's: `State.inputs`. -/
structure Params where
  /-- TICK_W; the types of Word.lean are of this width (`Params.WF`) -/
  tickW : Nat
  /-- CNT_W, likewise -/
  cntW : Nat
  /-- KEY_W, likewise -/
  keyW : Nat
  descA : Descriptor
  descB : Descriptor
  /-- IDLE_THRESH -/
  idleThresh : Ticks
  /-- DUR_SAT, the saturating sentinel duration -/
  durSat : Ticks
  /-- PREV_RESET (decision D14) -/
  prevReset : Bool
  /-- NOKEY, the "no key" sentinel (decision D10) -/
  nokey : KeyCode
  /-- KEYS, the closed set of logical keys other than NOKEY -/
  keys : List KeyCode
  romA : Code → RomResult
  romB : Code → RomResult
  /-- TICK_PERIOD, a positive real time (D19): no rule reads it (R7); its unit is left open too. Log entry 13. -/
  tickPeriod : Rat

/-- DESC_X of a decoder. -/
def Params.desc (c : Params) : Side → Descriptor
  | .a => c.descA
  | .b => c.descB

/-- DESC_A (spec/42_decoder_a.md R85). -/
def Config.descA : Descriptor :=
  { hl := ⟨630, 690⟩, hh := ⟨270, 370⟩, ds := ⟨35, 130⟩, dl := ⟨200, 300⟩, width := 48, split := some 16 }

/-- DESC_B (spec/43_decoder_b.md R100). -/
def Config.descB : Descriptor :=
  { hl := ⟨700, 990⟩, hh := ⟨700, 990⟩, ds := ⟨35, 220⟩, dl := ⟨250, 350⟩, width := 32, split := none }

/-- OPEN (R7, N3): the key codes of the hardware, a free value. Log entry 8. -/
opaque Config.keyCodes : List KeyCode

/-- OPEN (R7, N1): what is written in ROM_A, a free value. Log entry 8. -/
opaque Config.romAContents : Code → RomResult

/-- OPEN (R7, N2): what is written in ROM_B, a free value. Log entry 8. -/
opaque Config.romBContents : Code → RomResult

/-- OPEN (R7, N4): the real time of a tick, a free value that no rule reads. -/
opaque Config.tickTime : Rat

/-- TICK_PERIOD: positive, whatever the free value is; every positive rational is its own image. Log entry 13. -/
def Config.tickPeriod : Rat :=
  if 0 < Config.tickTime then Config.tickTime else 1

/-- KEYS: "each a non-zero KEY_W-bit code" (R7, R56), whatever the free list holds. -/
def Config.keys : List KeyCode :=
  Config.keyCodes.filter (fun k => k != 0)

/-- The constraint of R36 on a ROM's contents, `Hit(k)` has `k` in KEYS: an entry outside KEYS reads `Ignored`.
Every legal ROM is its own image, so the free contents range over exactly the legal ROMs. Log entry 8. -/
def RomResult.within (keys : List KeyCode) : RomResult → RomResult
  | .hit k => if keys.contains k then .hit k else .ignored
  | .ignored => .ignored
  | .miss => .miss

/-- The configuration of this hardware (R7). -/
def Config.hw : Params :=
  { tickW := Config.tickW
    cntW := Config.cntW
    keyW := Config.keyW
    descA := Config.descA
    descB := Config.descB
    idleThresh := 20000
    durSat := 65535
    prevReset := true
    nokey := 0x00
    keys := Config.keys
    romA := fun code => (Config.romAContents code).within Config.keys
    romB := fun code => (Config.romBContents code).within Config.keys
    tickPeriod := Config.tickPeriod }

end Sys2Proof
end

