-- ==== Sys2Proof/Syntax.lean ====
section
/-! DEFINITION. The operations of the block as syntax: one constructor of `Instr` per row of spec/opcode_table.json
(44 rows), the decision points whose selectors pick them (spec/30_encoding.md R47), and the selector word. -/

namespace Sys2Proof

/-- The decision points of the block: the seven selector formats of R47, DSEL once per decoder (R51). -/
inductive Point where
  | bcmd
  | ssel
  | dsel (x : Side)
  | asel
  | bsel
  | lsel
  | isel
deriving DecidableEq, Repr

/-- A selector at its decision point, with the value of the input `ir_in` beside it: `ir_in` is an operand and not
part of a selector (R48). Log entry 6. -/
structure Selector where
  point : Point
  sel : BitVec 8
  irIn : Bool
deriving DecidableEq, Repr

/-- One operation or sub-operation of the block. -/
inductive Instr where
  -- block level (BCMD, R48)
  | reset
  | nop
  | tick
  | poll (ir : Bool)
  | tickpoll (ir : Bool)
  -- the sampler (SSEL, R55)
  | sampleNoedge
  | sampleEdge (ir : Bool)
  | sampleEdgeOvf (ir : Bool)
  -- decoder A (DSEL, R54)
  | aIdleFall
  | aIdleRise
  | aHdrRiseOk
  | aHdrRiseBad
  | aHdrFallOk
  | aHdrFallBad
  | aDataFallOne
  | aDataFallZero
  | aDataFallBad
  | aDataRiseMore
  | aDataRiseDone
  -- decoder B (DSEL, R54)
  | bIdleFall
  | bIdleRise
  | bHdrRiseOk
  | bHdrRiseBad
  | bHdrFallOk
  | bHdrFallBad
  | bDataFallOne
  | bDataFallZero
  | bDataFallBad
  | bDataRiseMore
  | bDataRiseDone
  -- RESOLVE stage A (ASEL, R55)
  | resASkip
  | resAHit
  | resAIgn
  | resAMiss
  -- RESOLVE stage B (BSEL, R55)
  | resBSkipAwon
  | resBSkipNone
  | resBHit
  | resBIgn
  | resBMiss
  -- LATCH (LSEL, R55)
  | latchSet
  | latchHold
  -- the idle check (ISEL, R55)
  | idleOvf
  | idleThresh
  | idleNone
deriving DecidableEq, Repr

/-- One row of the operation map: an operation is picked by `(selector & mask) = pattern` at its point (R47). -/
structure OpRow where
  instr : Instr
  point : Point
  pattern : BitVec 8
  mask : BitVec 8
deriving DecidableEq, Repr

/-- Why a selector picks no operation (R57). -/
inductive Reject where
  /-- bits above the width of the selector's format are set: no such selector exists (R47) -/
  | tooWide
  /-- DSEL with `phase = 0b11`: ERROR is never held (R57, U1) -/
  | errorPhase
  /-- ASEL or BSEL with class `0b01`: `found = 0` with `key ≠ 0` is no ROM word (R57) -/
  | romClass
deriving DecidableEq, Repr

/-- The width in bits of a point's selector (R47). -/
def Point.width : Point → Nat
  | .bcmd => 3
  | .ssel => 2
  | .dsel _ => 8
  | .asel => 3
  | .bsel => 4
  | .lsel => 1
  | .isel => 2

end Sys2Proof
end

