-- ==== Sys2Proof/WellFormed.lean ====
section
/-! DEFINITION. Well-formedness, as decidable checks on the raw data. Every term of `Instr` is well formed: its only
operand is the one-bit level `ir_in`. What can be ill formed is a selector word (R47, R57), a descriptor (R71, D26)
and a configuration (R7, R36). -/

namespace Sys2Proof

/-- The selector has no bit above its format's width (R47). -/
def Selector.fits (w : Selector) : Bool :=
  decide (w.sel.toNat < 2 ^ w.point.width)

/-- The selector is none of the encodings of R57 that pick no operation: a DSEL with phase 0b11, an ASEL or a BSEL
whose stage reads a ROM word of class 0b01. -/
def Selector.unreserved (w : Selector) : Bool :=
  match w.point with
  | .dsel _ => w.sel.toNat / 64 != 3
  | .asel => w.sel.toNat != 0b101
  | .bsel => w.sel.toNat != 0b0101
  | _ => true

/-- A selector that can occur. -/
def Selector.wf (w : Selector) : Bool :=
  w.fits && w.unreserved

/-- A selector the environment can present: the strobes `rst`, `tick`, `poll` and nothing else (R31, R146). -/
def Selector.blockLevel (w : Selector) : Bool :=
  w.point == .bcmd && w.fits

/-- `min < max` (D26). -/
def Window.wf (w : Window) : Bool :=
  decide (w.lo.toNat < w.hi.toNat)

/-- The windows accept no duration in common. -/
def Window.disjoint (v w : Window) : Bool :=
  decide (v.hi.toNat ≤ w.lo.toNat + 1) || decide (w.hi.toNat ≤ v.lo.toNat + 1)

/-- Every window has `min < max`, the data windows are disjoint (D26), and a frame has at least one bit. -/
def Descriptor.wf (d : Descriptor) : Bool :=
  d.hl.wf && d.hh.wf && d.ds.wf && d.dl.wf && d.ds.disjoint d.dl && decide (0 < d.width.toNat)

/-- A ROM result is legal for KEYS: `Hit(k)` has `k` a member (R36). -/
def RomResult.legal (keys : List KeyCode) : RomResult → Bool
  | .hit k => keys.contains k
  | .ignored => true
  | .miss => true

/-- A legal configuration: R7's constraints on the descriptors, on KEYS and on the ROMs. -/
structure Params.WF (c : Params) : Prop where
  tickW : c.tickW = Config.tickW
  cntW : c.cntW = Config.cntW
  keyW : c.keyW = Config.keyW
  durSat : c.durSat = BitVec.allOnes Config.tickW
  descA : c.descA.wf = true
  descB : c.descB.wf = true
  nokey : c.nokey = 0
  keys : c.nokey ∉ c.keys
  romA : ∀ code, (c.romA code).legal c.keys = true
  romB : ∀ code, (c.romB code).legal c.keys = true
  tickPeriod : 0 < c.tickPeriod

end Sys2Proof
end

