-- ==== Sys2Proof/Decode.lean ====
section
/-! DEFINITION. The decoder, total on every selector word, and the encoder after it. The table is the operation map
of spec/30_encoding.md R48, R54 and R55 row by row; the encoder is written from the same rules, constructor by
constructor, and not from the table. -/

namespace Sys2Proof

/-! ### Values inside a selector -/

/-- Bits written most significant first, as R47 lists the fields of a format. -/
def packBits (bs : List Bool) : BitVec 8 :=
  bs.foldl (fun acc b => (acc <<< 1) ||| (BitVec.ofBool b).setWidth 8) 0

/-- The phase codes of R50. -/
def phaseCode : Phase → BitVec 2
  | .idle => 0b00
  | .header => 0b01
  | .data => 0b10

/-- ERROR's code (R50): transient, held by no PHASE register. -/
def errorCode : BitVec 2 := 0b11

/-- The phase a code stands for; ERROR's stands for none that is held (R57). -/
def phaseOfCode (v : BitVec 2) : Option Phase :=
  if v = 0b00 then some .idle
  else if v = 0b01 then some .header
  else if v = 0b10 then some .data
  else none

/-! ### The operation map -/

/-- R48. -/
def bcmdRows (ir : Bool) : List OpRow :=
  [ ⟨.reset, .bcmd, 0b100, 0b100⟩,
    ⟨.nop, .bcmd, 0b000, 0b111⟩,
    ⟨.tick, .bcmd, 0b010, 0b111⟩,
    ⟨.poll ir, .bcmd, 0b001, 0b111⟩,
    ⟨.tickpoll ir, .bcmd, 0b011, 0b111⟩ ]

/-- R55, SSEL. -/
def sselRows (ir : Bool) : List OpRow :=
  [ ⟨.sampleNoedge, .ssel, 0b00, 0b10⟩,
    ⟨.sampleEdge ir, .ssel, 0b10, 0b11⟩,
    ⟨.sampleEdgeOvf ir, .ssel, 0b11, 0b11⟩ ]

/-- R54, decoder A. -/
def dselRowsA : List OpRow :=
  [ ⟨.aIdleFall, .dsel .a, 0x00, 0xE0⟩,
    ⟨.aIdleRise, .dsel .a, 0x20, 0xE0⟩,
    ⟨.aHdrRiseOk, .dsel .a, 0x70, 0xF0⟩,
    ⟨.aHdrRiseBad, .dsel .a, 0x60, 0xF0⟩,
    ⟨.aHdrFallOk, .dsel .a, 0x48, 0xE8⟩,
    ⟨.aHdrFallBad, .dsel .a, 0x40, 0xE8⟩,
    ⟨.aDataFallOne, .dsel .a, 0x82, 0xE2⟩,
    ⟨.aDataFallZero, .dsel .a, 0x84, 0xE6⟩,
    ⟨.aDataFallBad, .dsel .a, 0x80, 0xE6⟩,
    ⟨.aDataRiseMore, .dsel .a, 0xA0, 0xE1⟩,
    ⟨.aDataRiseDone, .dsel .a, 0xA1, 0xE1⟩ ]

/-- R54, decoder B. -/
def dselRowsB : List OpRow :=
  [ ⟨.bIdleFall, .dsel .b, 0x00, 0xE0⟩,
    ⟨.bIdleRise, .dsel .b, 0x20, 0xE0⟩,
    ⟨.bHdrRiseOk, .dsel .b, 0x70, 0xF0⟩,
    ⟨.bHdrRiseBad, .dsel .b, 0x60, 0xF0⟩,
    ⟨.bHdrFallOk, .dsel .b, 0x48, 0xE8⟩,
    ⟨.bHdrFallBad, .dsel .b, 0x40, 0xE8⟩,
    ⟨.bDataFallOne, .dsel .b, 0x82, 0xE2⟩,
    ⟨.bDataFallZero, .dsel .b, 0x84, 0xE6⟩,
    ⟨.bDataFallBad, .dsel .b, 0x80, 0xE6⟩,
    ⟨.bDataRiseMore, .dsel .b, 0xA0, 0xE1⟩,
    ⟨.bDataRiseDone, .dsel .b, 0xA1, 0xE1⟩ ]

/-- R55, ASEL. -/
def aselRows : List OpRow :=
  [ ⟨.resASkip, .asel, 0b000, 0b100⟩,
    ⟨.resAHit, .asel, 0b111, 0b111⟩,
    ⟨.resAIgn, .asel, 0b110, 0b111⟩,
    ⟨.resAMiss, .asel, 0b100, 0b111⟩ ]

/-- R55, BSEL. -/
def bselRows : List OpRow :=
  [ ⟨.resBSkipAwon, .bsel, 0b1000, 0b1000⟩,
    ⟨.resBSkipNone, .bsel, 0b0000, 0b1100⟩,
    ⟨.resBHit, .bsel, 0b0111, 0b1111⟩,
    ⟨.resBIgn, .bsel, 0b0110, 0b1111⟩,
    ⟨.resBMiss, .bsel, 0b0100, 0b1111⟩ ]

/-- R55, LSEL. -/
def lselRows : List OpRow :=
  [ ⟨.latchSet, .lsel, 0b1, 0b1⟩,
    ⟨.latchHold, .lsel, 0b0, 0b1⟩ ]

/-- R55, ISEL: the rows IDLE.OVF and IDLE.THRESH are not exclusive. -/
def iselRows : List OpRow :=
  [ ⟨.idleOvf, .isel, 0b10, 0b10⟩,
    ⟨.idleThresh, .isel, 0b01, 0b01⟩,
    ⟨.idleNone, .isel, 0b00, 0b11⟩ ]

/-- The whole operation map in the table's order, for one value of the operand `ir_in`. -/
def opcodeTable (ir : Bool) : List OpRow :=
  bcmdRows ir ++ sselRows ir ++ dselRowsA ++ dselRowsB ++ aselRows ++ bselRows ++ lselRows ++ iselRows

/-! ### The decoder -/

/-- `(selector & mask) = match`, at the row's own point (R47). -/
def rowMatches (w : Selector) (r : OpRow) : Bool :=
  r.point == w.point && (w.sel &&& r.mask) == r.pattern

/-- Every operation a selector picks, in the table's order: one, or two for ISEL = 0b11 (R57). -/
def picks (w : Selector) : List Instr :=
  if w.fits then ((opcodeTable w.irIn).filter (rowMatches w)).map (fun r => r.instr) else []

/-- Why a selector of its format's width matches no row (R57). -/
def rejectReason : Point → Reject
  | .dsel _ => .errorPhase
  | .asel => .romClass
  | .bsel => .romClass
  | _ => .tooWide

/-- The operation a selector picks, the first where it picks two (log entry 11), or the reason there is none. -/
def decode (w : Selector) : Except Reject Instr :=
  if w.fits then
    match (opcodeTable w.irIn).find? (rowMatches w) with
    | some r => .ok r.instr
    | none => .error (rejectReason w.point)
  else .error .tooWide

/-! ### Words numbered as spec/opcode_table.json numbers them -/

/-- The point a table word is read at. The table's words carry no point, and one byte holds every selector, so the
width says it where it can and the value where it cannot: 1, 2, 3 and 4 bits are LSEL, SSEL, BCMD and BSEL; in a
whole byte a value below 8 is BCMD, below 16 BSEL, and any other DSEL of decoder A. Log entry 5. -/
def tablePoint (nbits w : Nat) : Point :=
  if nbits = 1 then .lsel
  else if nbits = 2 then .ssel
  else if nbits = 3 then .bcmd
  else if nbits = 4 then .bsel
  else if w % 256 < 8 then .bcmd
  else if w % 256 < 16 then .bsel
  else .dsel .a

/-- A table word as the block's inputs present it: the selector in the first byte, `ir_in` in bit 0 of an operand
byte after it (log entries 5 and 6). -/
def tableSelector (nbits w : Nat) : Selector :=
  { point := tablePoint nbits w
    sel := BitVec.ofNat 8 w
    irIn := w / 256 % 2 == 1 }

/-- The instruction the decoder reads from a word of spec/opcode_table.json. -/
def decodeTableWord (nbits w : Nat) : Option Instr :=
  match decode (tableSelector nbits w) with
  | .ok i => some i
  | .error _ => none

/-! ### The encoder -/

/-- The selector with which R48, R54 and R55 pick an operation, every bit the row does not look at 0. -/
def encode : Instr → Selector
  | .reset => ⟨.bcmd, 0b100, false⟩
  | .nop => ⟨.bcmd, 0b000, false⟩
  | .tick => ⟨.bcmd, 0b010, false⟩
  | .poll ir => ⟨.bcmd, 0b001, ir⟩
  | .tickpoll ir => ⟨.bcmd, 0b011, ir⟩
  | .sampleNoedge => ⟨.ssel, packBits [false, false], false⟩
  | .sampleEdge ir => ⟨.ssel, packBits [true, false], ir⟩
  | .sampleEdgeOvf ir => ⟨.ssel, packBits [true, true], ir⟩
  | .aIdleFall => ⟨.dsel .a, packBits [false, false, false, false, false, false, false, false], false⟩
  | .aIdleRise => ⟨.dsel .a, packBits [false, false, true, false, false, false, false, false], false⟩
  | .aHdrRiseOk => ⟨.dsel .a, packBits [false, true, true, true, false, false, false, false], false⟩
  | .aHdrRiseBad => ⟨.dsel .a, packBits [false, true, true, false, false, false, false, false], false⟩
  | .aHdrFallOk => ⟨.dsel .a, packBits [false, true, false, false, true, false, false, false], false⟩
  | .aHdrFallBad => ⟨.dsel .a, packBits [false, true, false, false, false, false, false, false], false⟩
  | .aDataFallOne => ⟨.dsel .a, packBits [true, false, false, false, false, false, true, false], false⟩
  | .aDataFallZero => ⟨.dsel .a, packBits [true, false, false, false, false, true, false, false], false⟩
  | .aDataFallBad => ⟨.dsel .a, packBits [true, false, false, false, false, false, false, false], false⟩
  | .aDataRiseMore => ⟨.dsel .a, packBits [true, false, true, false, false, false, false, false], false⟩
  | .aDataRiseDone => ⟨.dsel .a, packBits [true, false, true, false, false, false, false, true], false⟩
  | .bIdleFall => ⟨.dsel .b, packBits [false, false, false, false, false, false, false, false], false⟩
  | .bIdleRise => ⟨.dsel .b, packBits [false, false, true, false, false, false, false, false], false⟩
  | .bHdrRiseOk => ⟨.dsel .b, packBits [false, true, true, true, false, false, false, false], false⟩
  | .bHdrRiseBad => ⟨.dsel .b, packBits [false, true, true, false, false, false, false, false], false⟩
  | .bHdrFallOk => ⟨.dsel .b, packBits [false, true, false, false, true, false, false, false], false⟩
  | .bHdrFallBad => ⟨.dsel .b, packBits [false, true, false, false, false, false, false, false], false⟩
  | .bDataFallOne => ⟨.dsel .b, packBits [true, false, false, false, false, false, true, false], false⟩
  | .bDataFallZero => ⟨.dsel .b, packBits [true, false, false, false, false, true, false, false], false⟩
  | .bDataFallBad => ⟨.dsel .b, packBits [true, false, false, false, false, false, false, false], false⟩
  | .bDataRiseMore => ⟨.dsel .b, packBits [true, false, true, false, false, false, false, false], false⟩
  | .bDataRiseDone => ⟨.dsel .b, packBits [true, false, true, false, false, false, false, true], false⟩
  | .resASkip => ⟨.asel, packBits [false, false, false], false⟩
  | .resAHit => ⟨.asel, packBits [true, true, true], false⟩
  | .resAIgn => ⟨.asel, packBits [true, true, false], false⟩
  | .resAMiss => ⟨.asel, packBits [true, false, false], false⟩
  | .resBSkipAwon => ⟨.bsel, packBits [true, false, false, false], false⟩
  | .resBSkipNone => ⟨.bsel, packBits [false, false, false, false], false⟩
  | .resBHit => ⟨.bsel, packBits [false, true, true, true], false⟩
  | .resBIgn => ⟨.bsel, packBits [false, true, true, false], false⟩
  | .resBMiss => ⟨.bsel, packBits [false, true, false, false], false⟩
  | .latchSet => ⟨.lsel, packBits [true], false⟩
  | .latchHold => ⟨.lsel, packBits [false], false⟩
  | .idleOvf => ⟨.isel, packBits [true, false], false⟩
  | .idleThresh => ⟨.isel, packBits [false, true], false⟩
  | .idleNone => ⟨.isel, packBits [false, false], false⟩

end Sys2Proof
end

