-- ==== Sys2Proof/Machine/State.lean ====
section
/-! DEFINITION. The state of the block as plain data: the twelve registers of spec/10_state.md R13 and nothing else
in `Regs`; the per-poll wires of R26 in `Wires`, which stand in the state because a step answers a state only (log
entry 3); the environment's pending choices in `inputs` (log entry 1). There is no memory in the state: the ROMs
never change (spec/20_memory.md R35) and are configuration. -/

namespace Sys2Proof.Machine

/-- An edge event `{level, duration}` (R49). -/
structure EdgeEvent where
  level : Bool
  dur : Ticks
deriving DecidableEq, Repr

/-- "The state of the block is exactly these registers" (R13, S0 to S11). -/
structure Regs where
  /-- PREV, R14 -/
  prev : Bool
  /-- TCNT, R15 -/
  tcnt : Ticks
  /-- TOV, R16 -/
  tov : Bool
  /-- PHASE_A, R17 -/
  phaseA : Phase
  /-- CNT_A, R18 -/
  cntA : Count
  /-- ACC_A_HI, R19 -/
  accAHi : BitVec 16
  /-- ACC_A_LO, R20 -/
  accALo : BitVec 32
  /-- PHASE_B, R21 -/
  phaseB : Phase
  /-- CNT_B, R22 -/
  cntB : Count
  /-- ACC_B, R23 -/
  accB : BitVec 32
  /-- KEY, R24 -/
  key : KeyCode
  /-- ACT, R25 -/
  act : Bool
deriving DecidableEq, Repr

/-- The per-poll wires (R26), and `a_won`, which RESOLVE hands from its stage A to its stage B (R115). -/
structure Wires where
  edge : Bool
  /-- ev_level and ev_dur: present only in a POLL that saw an edge (log entry 9) -/
  event : Option EdgeEvent
  doneA : Bool
  doneB : Bool
  k : KeyCode
  aWon : Bool
  unkA : Bool
  unkB : Bool
deriving DecidableEq, Repr

/-- The machine between two steps. -/
structure State where
  regs : Regs
  wires : Wires
  inputs : List Selector
deriving DecidableEq, Repr

/-- What stops the machine: nothing. "Nothing in the block has the treatment `fault` or `stuck`"
(spec/93_implementation_defined.md); "No condition in this core is fatal" (R133). Log entry 20. -/
inductive Fault where
deriving DecidableEq, Repr

/-- Why a step answers no next state. -/
inductive Refusal where
  /-- raised by `exec` for an instruction that has no meaning yet; safe: a claim about it is unprovable. -/
  | notModelled (mnemonic : String)
  /-- raised by `step` alone, for a pending selector word that picks no operation (R57: it "cannot occur"); safe: no
  selector the block's inputs can form is one, and the refusal gives it no meaning, as U1 asks. -/
  | reservedSelector (why : Reject)
deriving DecidableEq, Repr

/-- Every wire at 0, `k` at NOKEY: what the wires read outside a POLL, and at the start of one (R26, R61). -/
def Wires.quiet (c : Params) : Wires :=
  { edge := false, event := none, doneA := false, doneB := false
    k := c.nokey, aWon := false, unkA := false, unkB := false }

/-- The "reset" column of R13; RESET writes it (R147). -/
def Regs.reset (c : Params) : Regs :=
  { prev := c.prevReset
    tcnt := 0
    tov := false
    phaseA := .idle
    cntA := 0
    accAHi := 0
    accALo := 0
    phaseB := .idle
    cntB := 0
    accB := 0
    key := c.nokey
    act := false }

/-- The machine right after RESET, with nothing asked of it yet (R13, R147, R149). -/
def State.reset : State :=
  { regs := Regs.reset Config.hw, wires := Wires.quiet Config.hw, inputs := [] }

end Sys2Proof.Machine
end

