-- ==== Sys2Proof/Machine/Operands.lean ====
section
/-! DEFINITION. Operand forms (spec/30_encoding.md R52): the edge-event word, the window test and the bit
classification, the lookup code and the ROM word, and the views of registers that leave the block. -/

namespace Sys2Proof.Machine

/-! ### The edge event (R49) -/

/-- `EV[16] = level`, `EV[15:0] = duration`: the level above the TICK_W bits of the duration. -/
def EdgeEvent.word (e : EdgeEvent) : BitVec (1 + Config.tickW) :=
  BitVec.ofBool e.level ++ e.dur

/-- The edge event a 17-bit word stands for. -/
def EdgeEvent.ofWord (v : BitVec (1 + Config.tickW)) : EdgeEvent :=
  { level := v.getLsbD Config.tickW, dur := v.setWidth Config.tickW }

/-! ### The timing classifier -/

/-- `InWin(w, d)`: both comparisons unsigned and strict (R72). -/
def inWin (w : Window) (d : Ticks) : Bool :=
  decide (w.lo.toNat < d.toNat) && decide (d.toNat < w.hi.toNat)

/-- What the DATA falling-edge transitions make of a duration (R73). -/
structure BitClass where
  bit : Bool
  bad : Bool
deriving DecidableEq, Repr

/-- `Classify_X(d)`: data-long first, then data-short, else bad with bit 0 (R73). -/
def classify (desc : Descriptor) (d : Ticks) : BitClass :=
  if inWin desc.dl d then ⟨true, false⟩
  else if inWin desc.ds d then ⟨false, false⟩
  else ⟨false, true⟩

/-- `trunc_N((acc << 1) | b)` (R9, R74). -/
def shiftIn {n : Nat} (acc : BitVec n) (b : Bool) : BitVec n :=
  (acc <<< 1) ||| (BitVec.ofBool b).setWidth n

/-! ### ROM lookups -/

/-- `RomRead(X, c)` (R36). -/
def romRead (c : Params) : Side → Code → RomResult
  | .a => c.romA
  | .b => c.romB

/-- The lookup code: ACC_A_LO for ROM_A, ACC_B for ROM_B, used whole (R37, R52, R97, R112). -/
def lookupCode : Side → Regs → Code
  | .a, r => r.accALo
  | .b, r => r.accB

/-- The key field of a ROM word: 0x00 for `Ignored` and `Miss` (R37). -/
def romKey : RomResult → KeyCode
  | .hit k => k
  | .ignored => 0x00
  | .miss => 0x00

/-- The found bit of a ROM word (R37). -/
def romFound : RomResult → Bool
  | .hit _ => true
  | .ignored => true
  | .miss => false

/-- The 9-bit ROM word `{found, key[7:0]}` (R37). -/
def romWord (r : RomResult) : BitVec (1 + Config.keyW) :=
  BitVec.ofBool (romFound r) ++ romKey r

/-- The result a 9-bit word stands for; `{0, k}` with `k ≠ 0` stands for none (R37, R57). -/
def romOfWord (v : BitVec (1 + Config.keyW)) : Option RomResult :=
  if v.getLsbD Config.keyW then
    if v.setWidth Config.keyW = (0 : KeyCode) then some .ignored else some (.hit (v.setWidth Config.keyW))
  else if v.setWidth Config.keyW = (0 : KeyCode) then some .miss
  else none

/-! ### Views of registers (R31, R33) -/

/-- `code_a = {ACC_A_HI, ACC_A_LO}` (R98). -/
def codeA (r : Regs) : BitVec 48 :=
  r.accAHi ++ r.accALo

/-- `code_b = ACC_B` (R113). -/
def codeB (r : Regs) : BitVec 32 :=
  r.accB

/-- The block's outputs (R31). -/
structure Ports where
  keyOut : KeyCode
  actOut : Bool
  unkA : Bool
  unkB : Bool
  doneA : Bool
  doneB : Bool
  codeA : BitVec 48
  codeB : BitVec 32
deriving DecidableEq, Repr

/-- What the outputs show after a step: `key_out` and `act_out` are plain views of KEY and ACT (R127), `code_a` and
`code_b` of the accumulators (R33), the rest the wires of the step (R26). -/
def ports (s : State) : Ports :=
  { keyOut := s.regs.key
    actOut := s.regs.act
    unkA := s.wires.unkA
    unkB := s.wires.unkB
    doneA := s.wires.doneA
    doneB := s.wires.doneB
    codeA := codeA s.regs
    codeB := codeB s.regs }

end Sys2Proof.Machine
end

