-- ==== Sys2Proof/Machine/Flags.lean ====
section
/-! DEFINITION. Every flag and every selector bit: the overflow flag of the tick counter, the conditions each
sub-operation tests, and the selectors built from them (spec/30_encoding.md R47, R51, R55). -/

namespace Sys2Proof.Machine

/-! ### The tick counter and its flag (R66, R69) -/

/-- `TCNT + 1` modulo `2^TICK_W` (65536). -/
def tcntNext (r : Regs) : Ticks :=
  if r.tcnt = BitVec.allOnes Config.tickW then 0 else r.tcnt + 1

/-- TOV is set by the wrap and by nothing else, and is never cleared by a tick. -/
def tovNext (r : Regs) : Bool :=
  if r.tcnt = BitVec.allOnes Config.tickW then true else r.tov

/-! ### Conditions -/

/-- `edge = (ir_in != PREV)` (R26, R61). -/
def edgeSeen (ir : Bool) (r : Regs) : Bool :=
  ir != r.prev

/-- `over = TCNT > IDLE_THRESH`, unsigned and strict (R55, R69, R125). -/
def overThresh (c : Params) (r : Regs) : Bool :=
  decide (c.idleThresh.toNat < r.tcnt.toNat)

/-- `kvalid = (k != NOKEY)` (R55, R123). -/
def kvalid (c : Params) (w : Wires) : Bool :=
  w.k != c.nokey

/-- The phase of a decoder. -/
def Regs.phase (r : Regs) : Side → Phase
  | .a => r.phaseA
  | .b => r.phaseB

/-- The bit count of a decoder. -/
def Regs.cnt (r : Regs) : Side → Count
  | .a => r.cntA
  | .b => r.cntB

/-- The wire done_x of a decoder. -/
def Wires.done (w : Wires) : Side → Bool
  | .a => w.doneA
  | .b => w.doneB

/-- `full = (CNT_X = WIDTH_X)`, an equality (R51, R77). -/
def full (c : Params) (x : Side) (r : Regs) : Bool :=
  r.cnt x == (c.desc x).width

/-! ### Selectors, their fields most significant first (R47) -/

/-- SSEL = `edge, TOV`. -/
def sselOf (ir : Bool) (r : Regs) : Selector :=
  ⟨.ssel, packBits [edgeSeen ir r, r.tov], ir⟩

/-- DSEL = `phase[1:0], level, in_hl, in_hh, in_ds, in_dl, full`, formed before the transition changes anything
(R51). -/
def dselOf (c : Params) (x : Side) (e : EdgeEvent) (r : Regs) : Selector :=
  ⟨.dsel x,
    packBits
      [ (phaseCode (r.phase x)).getLsbD 1, (phaseCode (r.phase x)).getLsbD 0, e.level,
        inWin (c.desc x).hl e.dur, inWin (c.desc x).hh e.dur, inWin (c.desc x).ds e.dur, inWin (c.desc x).dl e.dur,
        full c x r ],
    e.level⟩

/-- The class bits `{found, key != 0}` of a ROM result (R56). -/
def romClass (r : RomResult) : List Bool :=
  [romFound r, romKey r != 0]

/-- ASEL = `done_a, ra[1:0]`; ROM_A is read only if decoder A completed, and the bits read 0 otherwise (R115, log
entry 10). -/
def aselOf (c : Params) (s : State) : Selector :=
  ⟨.asel,
    packBits
      (s.wires.doneA ::
        (if s.wires.doneA then romClass (romRead c .a (lookupCode .a s.regs)) else [false, false])),
    false⟩

/-- BSEL = `a_won, done_b, rb[1:0]`; ROM_B is read only if A did not win and decoder B completed, and the bits read 0
otherwise (R115, log entry 10). -/
def bselOf (c : Params) (s : State) : Selector :=
  ⟨.bsel,
    packBits
      (s.wires.aWon :: s.wires.doneB ::
        (if !s.wires.aWon && s.wires.doneB then romClass (romRead c .b (lookupCode .b s.regs)) else [false, false])),
    false⟩

/-- LSEL = `kvalid`. -/
def lselOf (c : Params) (s : State) : Selector :=
  ⟨.lsel, packBits [kvalid c s.wires], false⟩

/-- ISEL = `TOV, over`. -/
def iselOf (c : Params) (s : State) : Selector :=
  ⟨.isel, packBits [s.regs.tov, overThresh c s.regs], false⟩

/-! ### Labels for a trace (R134) -/

/-- The labels of R134; they appear in no register and on no port. -/
inductive TraceLabel where
  | eFraming
  | eSpurious
  | nUnknown
  | nIdle
deriving DecidableEq, Repr

/-- Which operations raise which condition (R129 to R132). -/
def traceLabel : Instr → Option TraceLabel
  | .aHdrRiseBad | .aHdrFallBad | .aDataFallBad => some .eFraming
  | .bHdrRiseBad | .bHdrFallBad | .bDataFallBad => some .eFraming
  | .aIdleRise | .bIdleRise => some .eSpurious
  | .resAMiss | .resBMiss => some .nUnknown
  | .idleOvf | .idleThresh => some .nIdle
  | .reset | .nop | .tick | .poll _ | .tickpoll _ => none
  | .sampleNoedge | .sampleEdge _ | .sampleEdgeOvf _ => none
  | .aIdleFall | .aHdrRiseOk | .aHdrFallOk | .aDataFallOne | .aDataFallZero | .aDataRiseMore | .aDataRiseDone => none
  | .bIdleFall | .bHdrRiseOk | .bHdrFallOk | .bDataFallOne | .bDataFallZero | .bDataRiseMore | .bDataRiseDone => none
  | .resASkip | .resAHit | .resAIgn => none
  | .resBSkipAwon | .resBSkipNone | .resBHit | .resBIgn => none
  | .latchSet | .latchHold | .idleNone => none

end Sys2Proof.Machine
end

