-- ==== Sys2Proof/Machine/Ops.lean ====
section
/-! DEFINITION. The named operations over the registers and the wires. Every write of the machine goes through one of
these. The ERROR collapse of spec/41_decoder_common.md R75 stands where a processor takes an exception (R137);
there is no return operation (R138). -/

namespace Sys2Proof.Machine

/-! ### One writer per register (R13) -/

def State.setPrev (s : State) (v : Bool) : State :=
  { s with regs := { s.regs with prev := v } }

def State.setTcnt (s : State) (v : Ticks) : State :=
  { s with regs := { s.regs with tcnt := v } }

def State.setTov (s : State) (v : Bool) : State :=
  { s with regs := { s.regs with tov := v } }

def State.setPhase (s : State) (x : Side) (p : Phase) : State :=
  match x with
  | .a => { s with regs := { s.regs with phaseA := p } }
  | .b => { s with regs := { s.regs with phaseB := p } }

def State.setCnt (s : State) (x : Side) (v : Count) : State :=
  match x with
  | .a => { s with regs := { s.regs with cntA := v } }
  | .b => { s with regs := { s.regs with cntB := v } }

def State.setAccAHi (s : State) (v : BitVec 16) : State :=
  { s with regs := { s.regs with accAHi := v } }

def State.setAccALo (s : State) (v : BitVec 32) : State :=
  { s with regs := { s.regs with accALo := v } }

def State.setAccB (s : State) (v : BitVec 32) : State :=
  { s with regs := { s.regs with accB := v } }

def State.setKey (s : State) (v : KeyCode) : State :=
  { s with regs := { s.regs with key := v } }

def State.setAct (s : State) (v : Bool) : State :=
  { s with regs := { s.regs with act := v } }

/-! ### One writer per wire (R26) -/

def State.setEdge (s : State) (v : Bool) : State :=
  { s with wires := { s.wires with edge := v } }

def State.setEvent (s : State) (e : EdgeEvent) : State :=
  { s with wires := { s.wires with event := some e } }

def State.setDone (s : State) (x : Side) (v : Bool) : State :=
  match x with
  | .a => { s with wires := { s.wires with doneA := v } }
  | .b => { s with wires := { s.wires with doneB := v } }

def State.setK (s : State) (v : KeyCode) : State :=
  { s with wires := { s.wires with k := v } }

def State.setAWon (s : State) (v : Bool) : State :=
  { s with wires := { s.wires with aWon := v } }

def State.setUnkA (s : State) (v : Bool) : State :=
  { s with wires := { s.wires with unkA := v } }

def State.setUnkB (s : State) (v : Bool) : State :=
  { s with wires := { s.wires with unkB := v } }

/-- All wires to 0, `k` to NOKEY (R26, R61, R147). -/
def State.quiet (s : State) (c : Params) : State :=
  { s with wires := Wires.quiet c }

/-! ### Operations on one decoder's registers -/

/-- The accumulator(s) of a decoder to 0 (R86, R101). -/
def State.zeroAcc (s : State) (x : Side) : State :=
  match x with
  | .a => (s.setAccAHi 0).setAccALo 0
  | .b => s.setAccB 0

/-- One bit into a decoder's accumulator (R74): decoder A's split is tested on CNT_A before the increment; decoder B
has one accumulator. -/
def State.shiftBit (s : State) (c : Params) (x : Side) (b : Bool) : State :=
  match x with
  | .a =>
    match c.descA.split with
    | some n =>
      if s.regs.cntA.toNat < n.toNat then s.setAccAHi (shiftIn s.regs.accAHi b)
      else s.setAccALo (shiftIn s.regs.accALo b)
    | none => s.setAccALo (shiftIn s.regs.accALo b)
  | .b => s.setAccB (shiftIn s.regs.accB b)

/-- `Append_X(b)` (R74): the bit, then CNT_X + 1 modulo 256 (R79). -/
def State.append (s : State) (c : Params) (x : Side) (b : Bool) : State :=
  (s.shiftBit c x b).setCnt x (s.regs.cnt x + 1)

/-- `collapse(X)` (R75, R137): PHASE_X through ERROR to IDLE, whose net effect is IDLE and nothing else. No state is
saved, no cause is stored, no output changes. -/
def State.collapse (s : State) (x : Side) : State :=
  s.setPhase x .idle

end Sys2Proof.Machine
end

