-- ==== Sys2Proof/Machine/Decoder.lean ====
section
/-! DEFINITION. The decoder shape shared by both protocols (spec/41_decoder_common.md): the eleven transitions, once,
for a decoder `x`, and the transition function `DecX_Edge` that picks among them. -/

namespace Sys2Proof.Machine

/-- X.IDLE.FALL: to HEADER; CNT_X and the accumulator(s) to 0 (R86, R101). -/
def idleFall (x : Side) (s : State) : State :=
  (((s.setPhase x .header).setCnt x 0).zeroAcc x).setDone x false

/-- X.IDLE.RISE: collapse, whose net effect in IDLE is none (R87, R102). -/
def idleRise (x : Side) (s : State) : State :=
  (s.collapse x).setDone x false

/-- X.HDR.RISE.OK: no register changes (R88, R103). -/
def hdrRiseOk (x : Side) (s : State) : State :=
  s.setDone x false

/-- X.HDR.RISE.BAD: collapse (R89, R104). -/
def hdrRiseBad (x : Side) (s : State) : State :=
  (s.collapse x).setDone x false

/-- X.HDR.FALL.OK: to DATA (R90, R105). -/
def hdrFallOk (x : Side) (s : State) : State :=
  (s.setPhase x .data).setDone x false

/-- X.HDR.FALL.BAD: collapse (R91, R106). -/
def hdrFallBad (x : Side) (s : State) : State :=
  (s.collapse x).setDone x false

/-- X.DATA.FALL.ONE: append 1 (R92, R107). -/
def dataFallOne (c : Params) (x : Side) (s : State) : State :=
  (s.append c x true).setDone x false

/-- X.DATA.FALL.ZERO: append 0 (R93, R108). -/
def dataFallZero (c : Params) (x : Side) (s : State) : State :=
  (s.append c x false).setDone x false

/-- X.DATA.FALL.BAD: append 0 first, then collapse (R94, R109). -/
def dataFallBad (c : Params) (x : Side) (s : State) : State :=
  ((s.append c x false).collapse x).setDone x false

/-- X.DATA.RISE.MORE: no register changes (R95, R110). -/
def dataRiseMore (x : Side) (s : State) : State :=
  s.setDone x false

/-- X.DATA.RISE.DONE: to IDLE, code complete (R96, R111). -/
def dataRiseDone (x : Side) (s : State) : State :=
  (s.setPhase x .idle).setDone x true

/-- `DecX_Edge(level, d)` (R76), over the named conditions. -/
def decEdge (c : Params) (x : Side) (e : EdgeEvent) (s : State) : State :=
  match s.regs.phase x with
  | .idle => if e.level then idleRise x s else idleFall x s
  | .header =>
    if e.level then
      if inWin (c.desc x).hl e.dur then hdrRiseOk x s else hdrRiseBad x s
    else
      if inWin (c.desc x).hh e.dur then hdrFallOk x s else hdrFallBad x s
  | .data =>
    if e.level then
      if full c x s.regs then dataRiseDone x s else dataRiseMore x s
    else
      if (classify (c.desc x) e.dur).bad then dataFallBad c x s
      else if (classify (c.desc x) e.dur).bit then dataFallOne c x s
      else dataFallZero c x s

/-- A run of one decoder over a list of edge events, alone (R82: "by feeding synthetic edge sequences"). -/
def decRun (c : Params) (x : Side) : List EdgeEvent → State → State
  | [], s => s
  | e :: es, s => decRun c x es (decEdge c x e s)

end Sys2Proof.Machine
end

