-- ==== Sys2Proof/Machine/Latch.lean ====
section
/-! DEFINITION. The key latch and the idle check (spec/44_resolver_latch.md R123 to R126). -/

namespace Sys2Proof.Machine

/-- LATCH.SET: `KEY <- k ; ACT <- 1` (R123). -/
def latchSet (s : State) : State :=
  (s.setKey s.wires.k).setAct true

/-- LATCH.HOLD: KEY and ACT unchanged (R123). -/
def latchHold (s : State) : State := s

/-- LATCH (R123). -/
def latch (c : Params) (s : State) : State :=
  if kvalid c s.wires then latchSet s else latchHold s

/-- IDLE.OVF: `ACT <- 0 ; KEY <- NOKEY`; TOV is read and not cleared (R124). -/
def idleOvf (c : Params) (s : State) : State :=
  (s.setAct false).setKey c.nokey

/-- IDLE.THRESH: `KEY <- NOKEY` and nothing else (R125). -/
def idleThresh (c : Params) (s : State) : State :=
  s.setKey c.nokey

/-- IDLE.NONE: nothing (R126). -/
def idleNone (s : State) : State := s

/-- IDLECHK (R126): the two tests are independent, the overflow path first; neither is IDLE.NONE. -/
def idlechk (c : Params) (s : State) : State :=
  match s.regs.tov, overThresh c s.regs with
  | true, true => idleThresh c (idleOvf c s)
  | true, false => idleOvf c s
  | false, true => idleThresh c s
  | false, false => idleNone s

/-- LATCH.SET (R123). -/
def execLatchSet (s : State) : Host.Outcome State Fault Refusal :=
  .next (latchSet s)

/-- LATCH.HOLD (R123). -/
def execLatchHold (s : State) : Host.Outcome State Fault Refusal :=
  .next (latchHold s)

/-- IDLE.OVF (R124). -/
def execIdleOvf (s : State) : Host.Outcome State Fault Refusal :=
  .next (idleOvf Config.hw s)

/-- IDLE.THRESH (R125). -/
def execIdleThresh (s : State) : Host.Outcome State Fault Refusal :=
  .next (idleThresh Config.hw s)

/-- IDLE.NONE (R126). -/
def execIdleNone (s : State) : Host.Outcome State Fault Refusal :=
  .next (idleNone s)

end Sys2Proof.Machine
end

