-- ==== Sys2Proof/Machine/Resolver.lean ====
section
/-! DEFINITION. RESOLVE, the code-to-key lookup with its priority A before B (spec/44_resolver_latch.md R115 to
R122). It writes wires and no register. -/

namespace Sys2Proof.Machine

/-- The first line of RESOLVE (R115). -/
def resolveBegin (c : Params) (s : State) : State :=
  (((s.setK c.nokey).setUnkA false).setUnkB false).setAWon false

/-- RES.A.SKIP: nothing (R115). -/
def resASkip (s : State) : State := s

/-- RES.A.HIT: `k <- ka`, A wins (R116). -/
def resAHit (c : Params) (s : State) : State :=
  (s.setK (romKey (romRead c .a (lookupCode .a s.regs)))).setAWon true

/-- RES.A.IGN: nothing (R117). -/
def resAIgn (s : State) : State := s

/-- RES.A.MISS: the unknown-code diagnostic (R118). -/
def resAMiss (s : State) : State :=
  s.setUnkA true

/-- RES.B.SKIP.AWON: nothing, ROM_B not read (R116). -/
def resBSkipAwon (s : State) : State := s

/-- RES.B.SKIP.NONE: nothing (R115). -/
def resBSkipNone (s : State) : State := s

/-- RES.B.HIT: `k <- kb` (R119). -/
def resBHit (c : Params) (s : State) : State :=
  s.setK (romKey (romRead c .b (lookupCode .b s.regs)))

/-- RES.B.IGN: nothing (R120). -/
def resBIgn (s : State) : State := s

/-- RES.B.MISS: the unknown-code diagnostic (R121). -/
def resBMiss (s : State) : State :=
  s.setUnkB true

/-- Stage A (R115). -/
def resolveA (c : Params) (s : State) : State :=
  if s.wires.doneA then
    match romRead c .a (lookupCode .a s.regs) with
    | .hit _ => resAHit c s
    | .ignored => resAIgn s
    | .miss => resAMiss s
  else resASkip s

/-- Stage B (R115): only if A did not win. -/
def resolveB (c : Params) (s : State) : State :=
  if s.wires.aWon then resBSkipAwon s
  else if s.wires.doneB then
    match romRead c .b (lookupCode .b s.regs) with
    | .hit _ => resBHit c s
    | .ignored => resBIgn s
    | .miss => resBMiss s
  else resBSkipNone s

/-- RESOLVE (R115). -/
def resolve (c : Params) (s : State) : State :=
  resolveB c (resolveA c (resolveBegin c s))

/-- RES.A.SKIP (R115). -/
def execResASkip (s : State) : Host.Outcome State Fault Refusal :=
  .next (resASkip s)

/-- RES.A.HIT (R116). -/
def execResAHit (s : State) : Host.Outcome State Fault Refusal :=
  .next (resAHit Config.hw s)

/-- RES.A.IGN (R117). -/
def execResAIgn (s : State) : Host.Outcome State Fault Refusal :=
  .next (resAIgn s)

/-- RES.A.MISS (R118). -/
def execResAMiss (s : State) : Host.Outcome State Fault Refusal :=
  .next (resAMiss s)

/-- RES.B.SKIP.AWON (R116). -/
def execResBSkipAwon (s : State) : Host.Outcome State Fault Refusal :=
  .next (resBSkipAwon s)

/-- RES.B.SKIP.NONE (R115). -/
def execResBSkipNone (s : State) : Host.Outcome State Fault Refusal :=
  .next (resBSkipNone s)

/-- RES.B.HIT (R119). -/
def execResBHit (s : State) : Host.Outcome State Fault Refusal :=
  .next (resBHit Config.hw s)

/-- RES.B.IGN (R120). -/
def execResBIgn (s : State) : Host.Outcome State Fault Refusal :=
  .next (resBIgn s)

/-- RES.B.MISS (R121). -/
def execResBMiss (s : State) : Host.Outcome State Fault Refusal :=
  .next (resBMiss s)

end Sys2Proof.Machine
end

