-- ==== Sys2Proof/Machine/Sampler.lean ====
section
/-! DEFINITION. The tick counter and the first sub-operation of POLL, SAMPLE (spec/40_sampler.md R62 to R66). A row's
meaning is its effect once its selector has picked it (log entry 4). -/

namespace Sys2Proof.Machine

/-- TICK on the registers (R66). -/
def tickRegs (s : State) : State :=
  (s.setTcnt (tcntNext s.regs)).setTov (tovNext s.regs)

/-- SAMPLE.NOEDGE: nothing (R62). -/
def sampleNoedge (s : State) : State := s

/-- SAMPLE.EDGE: the event `{ir_in, TCNT}`; TCNT to 0 (R63). -/
def sampleEdge (ir : Bool) (s : State) : State :=
  (s.setEvent ⟨ir, s.regs.tcnt⟩).setTcnt 0

/-- SAMPLE.EDGE.OVF: the event `{ir_in, DUR_SAT}`; TCNT and TOV to 0 (R64). -/
def sampleEdgeOvf (c : Params) (ir : Bool) (s : State) : State :=
  ((s.setEvent ⟨ir, c.durSat⟩).setTcnt 0).setTov false

/-- The sampler's case on an edge, by TOV (R61, R63, R64). -/
def sampleOnEdge (c : Params) (ir : Bool) (s : State) : State :=
  if s.regs.tov then sampleEdgeOvf c ir s else sampleEdge ir s

/-- SAMPLE.NOEDGE (R62). -/
def execSampleNoedge (s : State) : Host.Outcome State Fault Refusal :=
  .next (sampleNoedge s)

/-- SAMPLE.EDGE (R63). -/
def execSampleEdge (ir : Bool) (s : State) : Host.Outcome State Fault Refusal :=
  .next (sampleEdge ir s)

/-- SAMPLE.EDGE.OVF (R64). -/
def execSampleEdgeOvf (ir : Bool) (s : State) : Host.Outcome State Fault Refusal :=
  .next (sampleEdgeOvf Config.hw ir s)

end Sys2Proof.Machine
end

