-- ==== Sys2Proof/Machine/Block.lean ====
section
/-! DEFINITION. The block-level operations (spec/30_encoding.md R48, R53): RESET, NOP, TICK, POLL and TICKPOLL. -/

namespace Sys2Proof.Machine

/-- RESET (R147): every register of R13, the wires at 0; the environment's later choices stay. -/
def reset (c : Params) (s : State) : State :=
  { s.quiet c with regs := Regs.reset c }

/-- NOP (R53): no register changes; the wires read 0 (R26). -/
def nop (c : Params) (s : State) : State :=
  s.quiet c

/-- TICK (R66): the wires read 0 outside a POLL (R26). -/
def tick (c : Params) (s : State) : State :=
  tickRegs (s.quiet c)

/-- The first lines of POLL (R61): the wires at 0, then `edge`. -/
def pollBegin (c : Params) (ir : Bool) (s : State) : State :=
  (s.quiet c).setEdge (edgeSeen ir s.regs)

/-- What POLL does with an edge event: decoder A, decoder B, RESOLVE, LATCH, in this order (R61, R65, R136). -/
def onEvent (c : Params) (e : EdgeEvent) (s : State) : State :=
  latch c (resolve c (decEdge c .b e (decEdge c .a e s)))

/-- POLL's edge path up to the idle check: SAMPLE, PREV, then the event the sampler emitted (R61). -/
def pollEdge (c : Params) (ir : Bool) (s : State) : State :=
  let s1 := (sampleOnEdge c ir s).setPrev ir
  match s1.wires.event with
  | some e => onEvent c e s1
  | none => s1

/-- POLL (R61): the edge path or SAMPLE.NOEDGE, PREV, and in every case last the idle check. -/
def poll (c : Params) (ir : Bool) (s : State) : State :=
  let s0 := pollBegin c ir s
  if s0.wires.edge then idlechk c (pollEdge c ir s0)
  else idlechk c ((sampleNoedge s0).setPrev ir)

/-- TICKPOLL (R67): TICK, then POLL, nothing in between. -/
def tickpoll (c : Params) (ir : Bool) (s : State) : State :=
  poll c ir (tick c s)

/-- `EV l d` of R58: the decoder, resolver and latch part of a POLL on a given edge event. A test notation (D18), no
operation of the block. -/
def ev (c : Params) (e : EdgeEvent) (s : State) : State :=
  onEvent c e (((s.quiet c).setEdge true).setEvent e)

/-- RESET (R147). -/
def execReset (s : State) : Host.Outcome State Fault Refusal :=
  .next (reset Config.hw s)

/-- NOP (R53). -/
def execNop (s : State) : Host.Outcome State Fault Refusal :=
  .next (nop Config.hw s)

/-- TICK (R66). -/
def execTick (s : State) : Host.Outcome State Fault Refusal :=
  .next (tick Config.hw s)

/-- POLL (R61). -/
def execPoll (ir : Bool) (s : State) : Host.Outcome State Fault Refusal :=
  .next (poll Config.hw ir s)

/-- TICKPOLL (R67). -/
def execTickpoll (ir : Bool) (s : State) : Host.Outcome State Fault Refusal :=
  .next (tickpoll Config.hw ir s)

end Sys2Proof.Machine
end

