-- ==== Sys2Proof/Machine/DecoderA.lean ====
section
/-! DEFINITION. The eleven transitions of decoder A (spec/42_decoder_a.md), each over the shared shape of
Machine/Decoder.lean with this decoder's registers and descriptor. -/

namespace Sys2Proof.Machine

/-- A.IDLE.FALL (R86). -/
def execAIdleFall (s : State) : Host.Outcome State Fault Refusal :=
  .next (idleFall .a s)

/-- A.IDLE.RISE (R87). -/
def execAIdleRise (s : State) : Host.Outcome State Fault Refusal :=
  .next (idleRise .a s)

/-- A.HDR.RISE.OK (R88). -/
def execAHdrRiseOk (s : State) : Host.Outcome State Fault Refusal :=
  .next (hdrRiseOk .a s)

/-- A.HDR.RISE.BAD (R89). -/
def execAHdrRiseBad (s : State) : Host.Outcome State Fault Refusal :=
  .next (hdrRiseBad .a s)

/-- A.HDR.FALL.OK (R90). -/
def execAHdrFallOk (s : State) : Host.Outcome State Fault Refusal :=
  .next (hdrFallOk .a s)

/-- A.HDR.FALL.BAD (R91). -/
def execAHdrFallBad (s : State) : Host.Outcome State Fault Refusal :=
  .next (hdrFallBad .a s)

/-- A.DATA.FALL.ONE (R92). -/
def execADataFallOne (s : State) : Host.Outcome State Fault Refusal :=
  .next (dataFallOne Config.hw .a s)

/-- A.DATA.FALL.ZERO (R93). -/
def execADataFallZero (s : State) : Host.Outcome State Fault Refusal :=
  .next (dataFallZero Config.hw .a s)

/-- A.DATA.FALL.BAD (R94). -/
def execADataFallBad (s : State) : Host.Outcome State Fault Refusal :=
  .next (dataFallBad Config.hw .a s)

/-- A.DATA.RISE.MORE (R95). -/
def execADataRiseMore (s : State) : Host.Outcome State Fault Refusal :=
  .next (dataRiseMore .a s)

/-- A.DATA.RISE.DONE (R96). -/
def execADataRiseDone (s : State) : Host.Outcome State Fault Refusal :=
  .next (dataRiseDone .a s)

end Sys2Proof.Machine
end

