-- ==== Sys2Proof/Machine/DecoderB.lean ====
section
/-! DEFINITION. The eleven transitions of decoder B (spec/43_decoder_b.md), each over the shared shape of
Machine/Decoder.lean with this decoder's registers and descriptor. -/

namespace Sys2Proof.Machine

/-- B.IDLE.FALL (R101). -/
def execBIdleFall (s : State) : Host.Outcome State Fault Refusal :=
  .next (idleFall .b s)

/-- B.IDLE.RISE (R102). -/
def execBIdleRise (s : State) : Host.Outcome State Fault Refusal :=
  .next (idleRise .b s)

/-- B.HDR.RISE.OK (R103). -/
def execBHdrRiseOk (s : State) : Host.Outcome State Fault Refusal :=
  .next (hdrRiseOk .b s)

/-- B.HDR.RISE.BAD (R104). -/
def execBHdrRiseBad (s : State) : Host.Outcome State Fault Refusal :=
  .next (hdrRiseBad .b s)

/-- B.HDR.FALL.OK (R105). -/
def execBHdrFallOk (s : State) : Host.Outcome State Fault Refusal :=
  .next (hdrFallOk .b s)

/-- B.HDR.FALL.BAD (R106). -/
def execBHdrFallBad (s : State) : Host.Outcome State Fault Refusal :=
  .next (hdrFallBad .b s)

/-- B.DATA.FALL.ONE (R107). -/
def execBDataFallOne (s : State) : Host.Outcome State Fault Refusal :=
  .next (dataFallOne Config.hw .b s)

/-- B.DATA.FALL.ZERO (R108). -/
def execBDataFallZero (s : State) : Host.Outcome State Fault Refusal :=
  .next (dataFallZero Config.hw .b s)

/-- B.DATA.FALL.BAD (R109). -/
def execBDataFallBad (s : State) : Host.Outcome State Fault Refusal :=
  .next (dataFallBad Config.hw .b s)

/-- B.DATA.RISE.MORE (R110). -/
def execBDataRiseMore (s : State) : Host.Outcome State Fault Refusal :=
  .next (dataRiseMore .b s)

/-- B.DATA.RISE.DONE (R111). -/
def execBDataRiseDone (s : State) : Host.Outcome State Fault Refusal :=
  .next (dataRiseDone .b s)

end Sys2Proof.Machine
end

