-- ==== Sys2Proof/Machine/Dispatch.lean ====
section
/-! DEFINITION. The meaning of every operation: one arm per constructor of `Instr`. -/

namespace Sys2Proof.Machine

def exec (i : Instr) (s : State) : Host.Outcome State Fault Refusal :=
  match i with
  | .reset => Sys2Proof.Machine.execReset s
  | .nop => Sys2Proof.Machine.execNop s
  | .tick => Sys2Proof.Machine.execTick s
  | .poll ir => Sys2Proof.Machine.execPoll ir s
  | .tickpoll ir => Sys2Proof.Machine.execTickpoll ir s
  | .sampleNoedge => Sys2Proof.Machine.execSampleNoedge s
  | .sampleEdge ir => Sys2Proof.Machine.execSampleEdge ir s
  | .sampleEdgeOvf ir => Sys2Proof.Machine.execSampleEdgeOvf ir s
  | .aIdleFall => Sys2Proof.Machine.execAIdleFall s
  | .aIdleRise => Sys2Proof.Machine.execAIdleRise s
  | .aHdrRiseOk => Sys2Proof.Machine.execAHdrRiseOk s
  | .aHdrRiseBad => Sys2Proof.Machine.execAHdrRiseBad s
  | .aHdrFallOk => Sys2Proof.Machine.execAHdrFallOk s
  | .aHdrFallBad => Sys2Proof.Machine.execAHdrFallBad s
  | .aDataFallOne => Sys2Proof.Machine.execADataFallOne s
  | .aDataFallZero => Sys2Proof.Machine.execADataFallZero s
  | .aDataFallBad => Sys2Proof.Machine.execADataFallBad s
  | .aDataRiseMore => Sys2Proof.Machine.execADataRiseMore s
  | .aDataRiseDone => Sys2Proof.Machine.execADataRiseDone s
  | .bIdleFall => Sys2Proof.Machine.execBIdleFall s
  | .bIdleRise => Sys2Proof.Machine.execBIdleRise s
  | .bHdrRiseOk => Sys2Proof.Machine.execBHdrRiseOk s
  | .bHdrRiseBad => Sys2Proof.Machine.execBHdrRiseBad s
  | .bHdrFallOk => Sys2Proof.Machine.execBHdrFallOk s
  | .bHdrFallBad => Sys2Proof.Machine.execBHdrFallBad s
  | .bDataFallOne => Sys2Proof.Machine.execBDataFallOne s
  | .bDataFallZero => Sys2Proof.Machine.execBDataFallZero s
  | .bDataFallBad => Sys2Proof.Machine.execBDataFallBad s
  | .bDataRiseMore => Sys2Proof.Machine.execBDataRiseMore s
  | .bDataRiseDone => Sys2Proof.Machine.execBDataRiseDone s
  | .resASkip => Sys2Proof.Machine.execResASkip s
  | .resAHit => Sys2Proof.Machine.execResAHit s
  | .resAIgn => Sys2Proof.Machine.execResAIgn s
  | .resAMiss => Sys2Proof.Machine.execResAMiss s
  | .resBSkipAwon => Sys2Proof.Machine.execResBSkipAwon s
  | .resBSkipNone => Sys2Proof.Machine.execResBSkipNone s
  | .resBHit => Sys2Proof.Machine.execResBHit s
  | .resBIgn => Sys2Proof.Machine.execResBIgn s
  | .resBMiss => Sys2Proof.Machine.execResBMiss s
  | .latchSet => Sys2Proof.Machine.execLatchSet s
  | .latchHold => Sys2Proof.Machine.execLatchHold s
  | .idleOvf => Sys2Proof.Machine.execIdleOvf s
  | .idleThresh => Sys2Proof.Machine.execIdleThresh s
  | .idleNone => Sys2Proof.Machine.execIdleNone s

end Sys2Proof.Machine
end

