-- ==== Sys2Proof/Machine/Step.lean ====
section
/-! DEFINITION. One step of the block (spec/00_scope.md R6): the environment's next choice, decoded and executed. -/

namespace Sys2Proof.Machine

/-- One step. With nothing pending no strobe is set, which is NOP (R48, R53). Otherwise the oldest pending choice is
consumed and runs; one that picks no operation is refused by name (R57). -/
def step (s : State) : Host.Outcome State Fault Refusal :=
  match s.inputs with
  | [] => exec .nop s
  | w :: rest =>
    match decode w with
    | .ok i => exec i { s with inputs := rest }
    | .error why => .refused (.reservedSelector why)

/-- `s` with a table word as the environment's very next choice (log entries 2 and 5). -/
def State.withFetchWord (s : State) (nbits w : Nat) : State :=
  { s with inputs := tableSelector nbits w :: s.inputs }

end Sys2Proof.Machine
end

