-- ==== Sys2Proof/Machine/Stimulus.lean ====
section
/-! DEFINITION. The stimulus notation of the spec (spec/30_encoding.md R58, R59) as lists of the environment's
choices: what `State.inputs` holds. -/

namespace Sys2Proof.Machine

/-- One line of the notation (R58). -/
inductive Stim where
  | reset
  | tick
  | poll (l : Bool)
  | tickpoll (l : Bool)
  | nop
deriving DecidableEq, Repr

/-- The strobes of a line (R58). -/
def Stim.selector : Stim → Selector
  | .reset => encode .reset
  | .tick => encode .tick
  | .poll l => encode (.poll l)
  | .tickpoll l => encode (.tickpoll l)
  | .nop => encode .nop

/-- `TICKS n` (R59). -/
def ticks (n : Nat) : List Stim :=
  List.replicate n .tick

/-- `WAIT n, l` (R59). -/
def wait (n : Nat) (l : Bool) : List Stim :=
  ticks n ++ [.poll l]

/-- `EDGE l, d` (R59): an edge where PREV is not `l`, with duration `d` where TCNT and TOV are 0 before it. -/
def edge (l : Bool) (d : Nat) : List Stim :=
  wait d l

/-- The edges of one data bit: a low pulse of `low` ticks, then a gap of `long` or `short` ticks (R59). -/
def bitEdges (low long short : Nat) (b : Bool) : List Stim :=
  edge true low ++ edge false (if b then long else short)

/-- The bits of a word, from bit `n - 1` down to bit 0. -/
def bitsDown {n : Nat} (v : BitVec n) : List Bool :=
  (List.range n).map (fun i => v.getLsbD (n - 1 - i))

/-- `FRAME_A hi, lo` with gap `g` (R59). -/
def frameA (g : Nat) (hi : BitVec 16) (lo : BitVec 32) : List Stim :=
  edge false g ++ edge true 650 ++ edge false 320 ++ (bitsDown (hi ++ lo)).flatMap (bitEdges 80 250 80)
    ++ edge true 80

/-- `FRAME_B c` with gap `g` (R59). -/
def frameB (g : Nat) (code : BitVec 32) : List Stim :=
  edge false g ++ edge true 850 ++ edge false 850 ++ (bitsDown code).flatMap (bitEdges 100 300 100)
    ++ edge true 100

/-- A state with a stimulus as the environment's pending choices. -/
def State.withStimulus (s : State) (l : List Stim) : State :=
  { s with inputs := l.map Stim.selector }

end Sys2Proof.Machine
end

