-- ==== Sys2Proof/Safety.lean ====
section
/-! DEFINITION. What counts as a safe run, in the terms the statements use: schedules of the block's own strobes, the
invariants of spec/10_state.md R32, the shape of a frame (spec/41_decoder_common.md R80) and the events of a run. -/

namespace Sys2Proof.Safety

open Sys2Proof.Machine

/-- Every pending choice is a combination of the strobes `rst`, `tick`, `poll`: the only ones the block's ports allow
(R31, R146). -/
def BlockSchedule (s : State) : Prop :=
  ∀ w ∈ s.inputs, w.blockLevel = true

/-- No pending choice is a RESET. -/
def NoReset (s : State) : Prop :=
  ∀ w ∈ s.inputs, decode w ≠ .ok .reset

/-- The TICKs a pending choice holds: one in TICK and in TICKPOLL (R66, R67). -/
def ticksIn (w : Selector) : Nat :=
  match decode w with
  | .ok .tick => 1
  | .ok (.tickpoll _) => 1
  | _ => 0

/-- The TICKs of a schedule. -/
def tickCount (ws : List Selector) : Nat :=
  (ws.map ticksIn).sum

/-- The pending choice is a POLL or a TICKPOLL with the line at level `l`. -/
def PollsAt (l : Bool) (w : Selector) : Prop :=
  decode w = .ok (.poll l) ∨ decode w = .ok (.tickpoll l)

/-- With PREV at `l` the pending choice makes no edge event and no RESET: a TICK, a NOP, or a POLL or TICKPOLL that
finds the line where it was (R62). -/
def SeesNoEdge (l : Bool) (w : Selector) : Prop :=
  decode w = .ok .nop ∨ decode w = .ok .tick ∨ PollsAt l w

/-- The operations of the block level (R48, R53). -/
def IsBlockOp : Instr → Bool
  | .reset | .nop | .tick | .poll _ | .tickpoll _ => true
  | _ => false

/-- R32 item 4 for one decoder, with what makes it inductive: a decoder in HEADER has counted nothing; in DATA the
count is at most the target, and at the target only when the last edge was falling. -/
structure CountInv (c : Params) (x : Side) (r : Regs) : Prop where
  header : r.phase x = .header → r.cnt x = 0
  bound : r.phase x = .data → (r.cnt x).toNat ≤ (c.desc x).width.toNat
  closing : r.phase x = .data → r.cnt x = (c.desc x).width → r.prev = false

/-- The invariants of R32, as a property of one state. Item 1 holds by the type Phase. Item 6 follows from `apart`:
when both decoders are in DATA, B has counted more bits than A. -/
structure Inv (c : Params) (s : State) : Prop where
  countA : CountInv c .a s.regs
  countB : CountInv c .b s.regs
  apart : s.regs.phaseA = .data → s.regs.phaseB = .data → s.regs.cntA.toNat < s.regs.cntB.toNat
  key : s.regs.key = c.nokey ∨ s.regs.key ∈ c.keys
  schedule : BlockSchedule s

/-- The operation a selector picks takes `s` to `t`. -/
def RunsPicked (w : Selector) (s t : State) : Prop :=
  ∃ i, decode w = .ok i ∧ exec i s = .next t

/-- Several operations one after the other, stopping at the first stop. -/
def execAll : List Instr → State → Host.Outcome State Fault Refusal
  | [], s => .next s
  | i :: is, s =>
    match exec i s with
    | .next t => execAll is t
    | .fault r => .fault r
    | .refused r => .refused r

/-- Every operation a selector picks, in the table's order, takes `s` to `t`: what the idle check needs, where
ISEL = 0b11 picks two rows (R57, R126). -/
def RunsAllPicked (w : Selector) (s t : State) : Prop :=
  execAll (picks w) s = .next t

/-- A run of the decoder, resolver and latch part of POLL over a list of edge events (R58, `EV`). -/
def evRun (c : Params) : List EdgeEvent → State → State
  | [], s => s
  | e :: es, s => evRun c es (ev c e s)

/-- The data part of a frame: for each bit a rising edge of any duration and a falling edge (R80). -/
def dataEdges (bits : List (Ticks × Ticks)) : List EdgeEvent :=
  bits.flatMap (fun p => [⟨true, p.1⟩, ⟨false, p.2⟩])

/-- A whole frame: falling edge, header, data, closing rising edge (R80). -/
def frameEdges (g low high : Ticks) (bits : List (Ticks × Ticks)) (close : Ticks) : List EdgeEvent :=
  [⟨false, g⟩, ⟨true, low⟩, ⟨false, high⟩] ++ dataEdges bits ++ [⟨true, close⟩]

/-- The tested durations of a frame are inside the windows of decoder `x`, and it has the target number of bits. -/
structure ValidFrame (c : Params) (x : Side) (low high : Ticks) (bits : List (Ticks × Ticks)) : Prop where
  headerLow : inWin (c.desc x).hl low = true
  headerHigh : inWin (c.desc x).hh high = true
  length : bits.length = (c.desc x).width.toNat
  data : ∀ p ∈ bits, inWin (c.desc x).dl p.2 = true ∨ inWin (c.desc x).ds p.2 = true

/-- Edge events that alternate in level, the first of level `l` (R68). -/
def Alternates : Bool → List EdgeEvent → Prop
  | _, [] => True
  | l, e :: es => e.level = l ∧ Alternates (!l) es

/-- The edge events of the next `n` steps of a run. -/
def events : Nat → State → List EdgeEvent
  | 0, _ => []
  | n + 1, s =>
    match step s with
    | .next t => t.wires.event.toList ++ events n t
    | .fault _ => []
    | .refused _ => []

/-- The code a decoder shows, in 48 bits: `code_a`, or `code_b` below zeros. -/
def codeOf : Side → Regs → BitVec 48
  | .a, r => codeA r
  | .b, r => (codeB r).setWidth 48

end Sys2Proof.Safety
end

