-- ==== Sys2Proof/Certificates/Slice0/Obligations.lean ====
section
/-! DEFINITION. The statements about the block, each from the numbered rules of spec/. A clause that rests on a choice
of the model says so in its docstring, with the log entry. -/

open Sys2Proof Sys2Proof.Machine Sys2Proof.Safety

/-! ## The block level -/

/-- R147, R13, R48: RESET is picked by every BCMD with `rst` set and writes every register of R13 with the "reset"
column, which is the spec's decisions D13 and D14; all per-poll wires read 0. That `a_won` is among the wires is the
model's (log entry 19). -/
def Obligations.ResetWritesEveryRegister : Prop :=
  (∀ (v : BitVec 8) (ir : Bool), v.toNat < 8 → v.getLsbD 2 = true → decode ⟨.bcmd, v, ir⟩ = .ok .reset) ∧
  ∀ s : State, ∃ t, exec .reset s = .next t ∧
    t.regs = { prev := true, tcnt := 0, tov := false, phaseA := .idle, cntA := 0, accAHi := 0, accALo := 0,
               phaseB := .idle, cntB := 0, accB := 0, key := 0x00, act := false } ∧
    t.wires = { edge := false, event := none, doneA := false, doneB := false, k := 0x00, aWon := false,
                unkA := false, unkB := false }

/-- R53, R26: NOP changes no register; outside a POLL every wire reads 0 (the spec's decision D1). That the wires
stand in the state, and that those without an output (`edge`, `k`, the event, `a_won`) read 0 too, is the model's (log
entry 3). -/
def Obligations.NopKeepsEveryRegister : Prop :=
  ∀ s : State, ∃ t, exec .nop s = .next t ∧ t.regs = s.regs ∧ t.wires = Wires.quiet Config.hw

/-- R66: TICK counts modulo 65536, sets TOV on the wrap and never clears it (the spec's decision D2), writes no other
register and produces no output. That the wires stand in the state, and that `edge`, `k`, the event and `a_won`, to
which the spec gives no value here, read 0 after a TICK, is the model's (log entry 3). -/
def Obligations.TickCountsAndFlagsTheWrap : Prop :=
  (∀ ir, decode ⟨.bcmd, 0b010, ir⟩ = .ok .tick) ∧
  ∀ s : State, ∃ t, exec .tick s = .next t ∧
    t.regs = { s.regs with
      tcnt := BitVec.ofNat 16 (s.regs.tcnt.toNat + 1)
      tov := if s.regs.tcnt.toNat = 65535 then true else s.regs.tov } ∧
    t.wires = Wires.quiet Config.hw

/-- R67: TICKPOLL is TICK followed by POLL with nothing in between, as one step (the spec's decision D4). -/
def Obligations.TickpollIsTickThenPoll : Prop :=
  (∀ ir, decode ⟨.bcmd, 0b011, ir⟩ = .ok (.tickpoll ir)) ∧
  ∀ (s : State) (ir : Bool), ∃ u t,
    exec .tick s = .next u ∧ exec (.poll ir) u = .next t ∧ exec (.tickpoll ir) s = .next t

/-- R62: a POLL that sees no edge touches neither the counter nor a decoder, produces no event and resolves nothing;
control passes to the idle check. What the idle check does to KEY and ACT is R124 to R126, with the spec's decisions
D5, D15 and D16. -/
def Obligations.PollWithoutEdgeOnlyChecksIdle : Prop :=
  ∀ s : State, ∃ t, exec (.poll s.regs.prev) s = .next t ∧
    t.regs = { s.regs with
      key := if s.regs.tov = true ∨ 20000 < s.regs.tcnt.toNat then 0x00 else s.regs.key
      act := if s.regs.tov = true then false else s.regs.act } ∧
    t.wires = Wires.quiet Config.hw

/-- R61 to R65, R123, R126, R156: a POLL that sees an edge emits the event of the sampler's rule, zeroes the counter
and its flag, advances both decoders with that event, stores a key when there is one, and releases nothing (the idle
check runs last: the spec's decision D5). -/
def Obligations.PollOnEdgeSamplesDecodesAndLatches : Prop :=
  ∀ s : State, ∃ t e, exec (.poll (!s.regs.prev)) s = .next t ∧
    e = { level := !s.regs.prev, dur := if s.regs.tov then 0xFFFF else s.regs.tcnt } ∧
    t.wires.edge = true ∧ t.wires.event = some e ∧
    t.regs =
      { prev := !s.regs.prev, tcnt := 0, tov := false
        phaseA := (decEdge Config.hw .a e s).regs.phaseA, cntA := (decEdge Config.hw .a e s).regs.cntA
        accAHi := (decEdge Config.hw .a e s).regs.accAHi, accALo := (decEdge Config.hw .a e s).regs.accALo
        phaseB := (decEdge Config.hw .b e s).regs.phaseB, cntB := (decEdge Config.hw .b e s).regs.cntB
        accB := (decEdge Config.hw .b e s).regs.accB
        key := if t.wires.k = 0x00 then s.regs.key else t.wires.k
        act := if t.wires.k = 0x00 then s.regs.act else true } ∧
    t.wires.doneA = (decEdge Config.hw .a e s).wires.doneA ∧
    t.wires.doneB = (decEdge Config.hw .b e s).wires.doneB

/-- R61, R53: POLL on an edge runs, in this order, the rows its selectors pick: SSEL, then PREV, then DSEL of A, DSEL
of B, ASEL, BSEL, LSEL, and last every row of ISEL. That an unread ROM's class bits are 0 is the model's (log entry
10). -/
def Obligations.PollOnEdgeRunsThePickedRows : Prop :=
  ∀ (s : State) (ir : Bool), ir ≠ s.regs.prev → ∃ e s1 s2 s3 s4 s5 s6 t,
    exec (.poll ir) s = .next t ∧
    RunsPicked (sselOf ir s.regs) { s with wires := { Wires.quiet Config.hw with edge := true } } s1 ∧
    s1.wires.event = some e ∧
    RunsPicked (dselOf Config.hw .a e s1.regs) { s1 with regs := { s1.regs with prev := ir } } s2 ∧
    RunsPicked (dselOf Config.hw .b e s2.regs) s2 s3 ∧
    RunsPicked (aselOf Config.hw s3) s3 s4 ∧
    RunsPicked (bselOf Config.hw s4) s4 s5 ∧
    RunsPicked (lselOf Config.hw s5) s5 s6 ∧
    RunsAllPicked (iselOf Config.hw s6) s6 t

/-- R61, R53, the other case: POLL without an edge runs the picked sampler row and every row of ISEL. -/
def Obligations.PollWithoutEdgeRunsThePickedRows : Prop :=
  ∀ s : State, ∃ s1 t,
    exec (.poll s.regs.prev) s = .next t ∧
    RunsPicked (sselOf s.regs.prev s.regs) { s with wires := Wires.quiet Config.hw } s1 ∧
    RunsAllPicked (iselOf Config.hw s1) { s1 with regs := { s1.regs with prev := s.regs.prev } } t

/-- R6, R48, R53: a step consumes the environment's oldest pending choice and runs the operation it decodes to; with
nothing pending no strobe is set, which is NOP. That the choices stand in `inputs` is the model's (log entry 1). -/
def Obligations.StepRunsTheDecodedOperation : Prop :=
  (∀ (s : State) (w : Selector) (rest : List Selector) (i : Instr),
    s.inputs = w :: rest → decode w = .ok i → step s = exec i { s with inputs := rest }) ∧
  ∀ s : State, s.inputs = [] → step s = exec .nop s

/-! ## Encodings -/

/-- R47, R48, R54, R55: decoding the selector with which the spec picks an operation gives that operation back, with
its operand. The bit positions are the spec's decision D17; where `ir_in` stands in a word is the model's (log entry
6). -/
def Obligations.DecodeOfEncode : Prop :=
  ∀ i : Instr, decode (encode i) = .ok i

/-- R47: an operation is picked by `(selector & mask) = match`: what `decode` answers is a row of the operation map at
the selector's point whose mask and match hold, and the row's encoding is one of the selectors it accepts. -/
def Obligations.DecodedRowMatchesItsSelector : Prop :=
  ∀ (w : Selector) (i : Instr), decode w = .ok i →
    (encode i).point = w.point ∧ w.sel.toNat < 2 ^ w.point.width ∧
    ∃ r ∈ opcodeTable w.irIn, r.instr = i ∧ r.point = w.point ∧ w.sel &&& r.mask = r.pattern ∧
      (encode i).sel &&& r.mask = r.pattern

/-- R57, R47: the decoder refuses exactly the selectors that cannot occur: DSEL with phase 0b11, a class 0b01, and
bits above the format's width (the last are the byte's, not the spec's: log entry 6). -/
def Obligations.DecodeAcceptsExactlyTheSelectorsThatOccur : Prop :=
  ∀ w : Selector, (∃ i, decode w = .ok i) ↔ w.wf = true

/-- R55, R57: every selector that can occur picks exactly one row, but for ISEL, where IDLE.OVF and IDLE.THRESH may
both be picked, IDLE.OVF first. -/
def Obligations.RowsAreExclusiveButForTheIdleCheck : Prop :=
  (∀ w : Selector, w.wf = true → w.point ≠ .isel → ∃ i, decode w = .ok i ∧ picks w = [i]) ∧
  ∀ w : Selector, w.wf = true → w.point = .isel →
    picks w =
      if w.sel.toNat = 3 then [.idleOvf, .idleThresh]
      else if w.sel.toNat = 2 then [.idleOvf]
      else if w.sel.toNat = 1 then [.idleThresh]
      else [.idleNone]

/-- R48, R54, R55: one selector of each format, written out bit by bit, decodes to the operation it stands for. -/
def Obligations.WrittenSelectorsDecode : Prop :=
  decode ⟨.bcmd, 0b111, true⟩ = .ok .reset ∧
  decode ⟨.bcmd, 0b001, true⟩ = .ok (.poll true) ∧
  decode ⟨.ssel, 0b10, false⟩ = .ok (.sampleEdge false) ∧
  decode ⟨.dsel .a, 0b01001010, false⟩ = .ok .aHdrFallOk ∧
  decode ⟨.dsel .b, 0b10100101, true⟩ = .ok .bDataRiseDone ∧
  decode ⟨.asel, 0b110, false⟩ = .ok .resAIgn ∧
  decode ⟨.bsel, 0b0100, false⟩ = .ok .resBMiss ∧
  decode ⟨.lsel, 0b1, false⟩ = .ok .latchSet ∧
  decode ⟨.isel, 0b01, false⟩ = .ok .idleThresh

/-- R57, U1: a pending selector that picks no operation is given no meaning: the step refuses it under the name that
says why, errorPhase for DSEL with phase 0b11, romClass for ASEL 0b101 and BSEL 0b0101, tooWide for one with a bit
above its format. That a refusal is the treatment of each is the model's (log entry 4), and so is the byte around a
selector (log entry 6). -/
def Obligations.StepRefusesSelectorsThatPickNothing : Prop :=
  ∀ (s : State) (w : Selector) (rest : List Selector), s.inputs = w :: rest →
    (w.wf = false → ∃ why, decode w = .error why ∧ step s = .refused (.reservedSelector why)) ∧
    (2 ^ w.point.width ≤ w.sel.toNat → step s = .refused (.reservedSelector .tooWide)) ∧
    (∀ x, w.point = .dsel x → w.sel.toNat / 64 = 3 → step s = .refused (.reservedSelector .errorPhase)) ∧
    (w.point = .asel → w.sel = 0b101 → step s = .refused (.reservedSelector .romClass)) ∧
    (w.point = .bsel → w.sel = 0b0101 → step s = .refused (.reservedSelector .romClass))

/-- R49: the edge-event word has the level at bit 16 and the duration below it. -/
def Obligations.EdgeEventWordLayout : Prop :=
  ∀ e : EdgeEvent, e.word.toNat = (if e.level then 65536 else 0) + e.dur.toNat

/-- R37, R56: `Hit(k)` is the word `{1, k}`, `Ignored` `{1, 0x00}`, `Miss` `{0, 0x00}`; the word `{0, k}` with `k ≠ 0`
stands for no result; and every other word is the word of the result it stands for. -/
def Obligations.RomWordLayout : Prop :=
  (∀ k : KeyCode, (romWord (.hit k)).toNat = 256 + k.toNat) ∧
  romWord .ignored = 0x100 ∧ romWord .miss = 0x000 ∧
  ∀ v : BitVec 9,
    (romOfWord v = none ↔ v.toNat ≠ 0 ∧ v.toNat < 256) ∧ (∀ r, romOfWord v = some r → romWord r = v)

/-! ## The sampler -/

/-- R63, beside it the row of R62 and that of R64: the sampler's rows, how each is picked and what each does.
SAMPLE.EDGE hands on `ir_in` and TCNT and clears TCNT in the same step. That TOV is cleared nowhere else (R64) is
OverflowFlagChangesOnlyByWrapEdgeOrReset. -/
def Obligations.SamplerRowsEmitTheEvent : Prop :=
  ∀ (s : State) (ir : Bool),
    (ir = s.regs.prev →
      decode (sselOf ir s.regs) = .ok .sampleNoedge ∧ exec .sampleNoedge s = .next s) ∧
    (ir ≠ s.regs.prev → s.regs.tov = false →
      decode (sselOf ir s.regs) = .ok (.sampleEdge ir) ∧
      ∃ t, exec (.sampleEdge ir) s = .next t ∧ t.regs = { s.regs with tcnt := 0 } ∧
        t.wires = { s.wires with event := some ⟨ir, s.regs.tcnt⟩ }) ∧
    (ir ≠ s.regs.prev → s.regs.tov = true →
      decode (sselOf ir s.regs) = .ok (.sampleEdgeOvf ir) ∧
      ∃ t, exec (.sampleEdgeOvf ir) s = .next t ∧ t.regs = { s.regs with tcnt := 0, tov := false } ∧
        t.wires = { s.wires with event := some ⟨ir, 0xFFFF⟩ })

/-! ## Decoder A -/

/-- R86, R87: decoder A in IDLE. A falling edge of any duration goes to HEADER with CNT_A, ACC_A_HI and ACC_A_LO at 0;
a rising edge of any duration changes no register. -/
def Obligations.DecoderARowsFromIdle : Prop :=
  ∀ (s : State) (d : Ticks), s.regs.phaseA = .idle →
    (decode (dselOf Config.hw .a ⟨false, d⟩ s.regs) = .ok .aIdleFall ∧
      ∃ t, exec .aIdleFall s = .next t ∧
        t.regs = { s.regs with phaseA := .header, cntA := 0, accAHi := 0, accALo := 0 } ∧
        t.wires = { s.wires with doneA := false }) ∧
    (decode (dselOf Config.hw .a ⟨true, d⟩ s.regs) = .ok .aIdleRise ∧
      ∃ t, exec .aIdleRise s = .next t ∧ t.regs = s.regs ∧ t.wires = { s.wires with doneA := false })

/-- R88 to R91: decoder A in HEADER. A rising edge inside (630, 690) changes no register, a falling edge inside (270,
370) goes to DATA, and any other duration collapses to IDLE and changes nothing else. -/
def Obligations.DecoderARowsFromHeader : Prop :=
  ∀ (s : State) (d : Ticks), s.regs.phaseA = .header →
    (630 < d.toNat ∧ d.toNat < 690 →
      decode (dselOf Config.hw .a ⟨true, d⟩ s.regs) = .ok .aHdrRiseOk ∧
      ∃ t, exec .aHdrRiseOk s = .next t ∧ t.regs = s.regs ∧ t.wires = { s.wires with doneA := false }) ∧
    (d.toNat ≤ 630 ∨ 690 ≤ d.toNat →
      decode (dselOf Config.hw .a ⟨true, d⟩ s.regs) = .ok .aHdrRiseBad ∧
      ∃ t, exec .aHdrRiseBad s = .next t ∧ t.regs = { s.regs with phaseA := .idle } ∧
        t.wires = { s.wires with doneA := false }) ∧
    (270 < d.toNat ∧ d.toNat < 370 →
      decode (dselOf Config.hw .a ⟨false, d⟩ s.regs) = .ok .aHdrFallOk ∧
      ∃ t, exec .aHdrFallOk s = .next t ∧ t.regs = { s.regs with phaseA := .data } ∧
        t.wires = { s.wires with doneA := false }) ∧
    (d.toNat ≤ 270 ∨ 370 ≤ d.toNat →
      decode (dselOf Config.hw .a ⟨false, d⟩ s.regs) = .ok .aHdrFallBad ∧
      ∃ t, exec .aHdrFallBad s = .next t ∧ t.regs = { s.regs with phaseA := .idle } ∧
        t.wires = { s.wires with doneA := false })

/-- R92, R93, R94: which row a falling edge in DATA takes, and that each appends one bit: into ACC_A_HI while CNT_A is
below 16, else into ACC_A_LO, as `trunc_N(2 v + b)`, with CNT_A + 1 modulo 256. The values that the malformed row of
R94 leaves in CNT_A and the accumulators are stale: the model keeps them as the spec's decision D7 says (log entry
15). -/
def Obligations.DecoderARowsOnFallingData : Prop :=
  ∀ (s : State) (d : Ticks), s.regs.phaseA = .data →
    (200 < d.toNat ∧ d.toNat < 300 →
      decode (dselOf Config.hw .a ⟨false, d⟩ s.regs) = .ok .aDataFallOne ∧
      ∃ t, exec .aDataFallOne s = .next t ∧ t.wires = { s.wires with doneA := false } ∧
        t.regs =
          if s.regs.cntA.toNat < 16 then
            { s.regs with accAHi := BitVec.ofNat 16 (2 * s.regs.accAHi.toNat + 1),
                          cntA := BitVec.ofNat 8 (s.regs.cntA.toNat + 1) }
          else
            { s.regs with accALo := BitVec.ofNat 32 (2 * s.regs.accALo.toNat + 1),
                          cntA := BitVec.ofNat 8 (s.regs.cntA.toNat + 1) }) ∧
    (35 < d.toNat ∧ d.toNat < 130 →
      decode (dselOf Config.hw .a ⟨false, d⟩ s.regs) = .ok .aDataFallZero ∧
      ∃ t, exec .aDataFallZero s = .next t ∧ t.wires = { s.wires with doneA := false } ∧
        t.regs =
          if s.regs.cntA.toNat < 16 then
            { s.regs with accAHi := BitVec.ofNat 16 (2 * s.regs.accAHi.toNat),
                          cntA := BitVec.ofNat 8 (s.regs.cntA.toNat + 1) }
          else
            { s.regs with accALo := BitVec.ofNat 32 (2 * s.regs.accALo.toNat),
                          cntA := BitVec.ofNat 8 (s.regs.cntA.toNat + 1) }) ∧
    (d.toNat ≤ 35 ∨ (130 ≤ d.toNat ∧ d.toNat ≤ 200) ∨ 300 ≤ d.toNat →
      decode (dselOf Config.hw .a ⟨false, d⟩ s.regs) = .ok .aDataFallBad ∧
      ∃ t, exec .aDataFallBad s = .next t ∧ t.wires = { s.wires with doneA := false } ∧
        t.regs =
          if s.regs.cntA.toNat < 16 then
            { s.regs with accAHi := BitVec.ofNat 16 (2 * s.regs.accAHi.toNat),
                          cntA := BitVec.ofNat 8 (s.regs.cntA.toNat + 1), phaseA := .idle }
          else
            { s.regs with accALo := BitVec.ofNat 32 (2 * s.regs.accALo.toNat),
                          cntA := BitVec.ofNat 8 (s.regs.cntA.toNat + 1), phaseA := .idle })

/-- R95, R96: decoder A in DATA on a rising edge of any duration. With CNT_A other than 48 no register changes; with
CNT_A = 48 the decoder goes to IDLE and raises `done_a`, CNT_A and the accumulators left as they are, and `code_a` is
the high field above the low one. That no other transition sets `done_a` is CodeCompleteOnlyAtTheTargetCount. -/
def Obligations.DecoderARowsOnRisingData : Prop :=
  ∀ (s : State) (d : Ticks), s.regs.phaseA = .data →
    (s.regs.cntA.toNat ≠ 48 →
      decode (dselOf Config.hw .a ⟨true, d⟩ s.regs) = .ok .aDataRiseMore ∧
      ∃ t, exec .aDataRiseMore s = .next t ∧ t.regs = s.regs ∧ t.wires = { s.wires with doneA := false }) ∧
    (s.regs.cntA.toNat = 48 →
      decode (dselOf Config.hw .a ⟨true, d⟩ s.regs) = .ok .aDataRiseDone ∧
      ∃ t, exec .aDataRiseDone s = .next t ∧ t.regs = { s.regs with phaseA := .idle } ∧
        t.wires = { s.wires with doneA := true } ∧
        (ports t).codeA.toNat = s.regs.accAHi.toNat * 2 ^ 32 + s.regs.accALo.toNat)

/-! ## Decoder B -/

/-- R101, R102: decoder B in IDLE. A falling edge of any duration goes to HEADER with CNT_B and ACC_B at 0; a rising
edge of any duration changes no register. -/
def Obligations.DecoderBRowsFromIdle : Prop :=
  ∀ (s : State) (d : Ticks), s.regs.phaseB = .idle →
    (decode (dselOf Config.hw .b ⟨false, d⟩ s.regs) = .ok .bIdleFall ∧
      ∃ t, exec .bIdleFall s = .next t ∧
        t.regs = { s.regs with phaseB := .header, cntB := 0, accB := 0 } ∧
        t.wires = { s.wires with doneB := false }) ∧
    (decode (dselOf Config.hw .b ⟨true, d⟩ s.regs) = .ok .bIdleRise ∧
      ∃ t, exec .bIdleRise s = .next t ∧ t.regs = s.regs ∧ t.wires = { s.wires with doneB := false })

/-- R103 to R106: decoder B in HEADER. A rising edge inside (700, 990) changes no register, a falling edge inside
(700, 990) goes to DATA, and any other duration collapses to IDLE and changes nothing else. -/
def Obligations.DecoderBRowsFromHeader : Prop :=
  ∀ (s : State) (d : Ticks), s.regs.phaseB = .header →
    (700 < d.toNat ∧ d.toNat < 990 →
      decode (dselOf Config.hw .b ⟨true, d⟩ s.regs) = .ok .bHdrRiseOk ∧
      ∃ t, exec .bHdrRiseOk s = .next t ∧ t.regs = s.regs ∧ t.wires = { s.wires with doneB := false }) ∧
    (d.toNat ≤ 700 ∨ 990 ≤ d.toNat →
      decode (dselOf Config.hw .b ⟨true, d⟩ s.regs) = .ok .bHdrRiseBad ∧
      ∃ t, exec .bHdrRiseBad s = .next t ∧ t.regs = { s.regs with phaseB := .idle } ∧
        t.wires = { s.wires with doneB := false }) ∧
    (700 < d.toNat ∧ d.toNat < 990 →
      decode (dselOf Config.hw .b ⟨false, d⟩ s.regs) = .ok .bHdrFallOk ∧
      ∃ t, exec .bHdrFallOk s = .next t ∧ t.regs = { s.regs with phaseB := .data } ∧
        t.wires = { s.wires with doneB := false }) ∧
    (d.toNat ≤ 700 ∨ 990 ≤ d.toNat →
      decode (dselOf Config.hw .b ⟨false, d⟩ s.regs) = .ok .bHdrFallBad ∧
      ∃ t, exec .bHdrFallBad s = .next t ∧ t.regs = { s.regs with phaseB := .idle } ∧
        t.wires = { s.wires with doneB := false })

/-- R107, R108, R109: which row a falling edge in DATA takes, and that each appends one bit to ACC_B as `trunc_32(2 v
+ b)`, with CNT_B + 1 modulo 256. The values that the malformed row of R109 leaves in CNT_B and ACC_B are stale: the
model keeps them as the spec's decision D7 says (log entry 15). -/
def Obligations.DecoderBRowsOnFallingData : Prop :=
  ∀ (s : State) (d : Ticks), s.regs.phaseB = .data →
    (250 < d.toNat ∧ d.toNat < 350 →
      decode (dselOf Config.hw .b ⟨false, d⟩ s.regs) = .ok .bDataFallOne ∧
      ∃ t, exec .bDataFallOne s = .next t ∧ t.wires = { s.wires with doneB := false } ∧
        t.regs = { s.regs with accB := BitVec.ofNat 32 (2 * s.regs.accB.toNat + 1),
                               cntB := BitVec.ofNat 8 (s.regs.cntB.toNat + 1) }) ∧
    (35 < d.toNat ∧ d.toNat < 220 →
      decode (dselOf Config.hw .b ⟨false, d⟩ s.regs) = .ok .bDataFallZero ∧
      ∃ t, exec .bDataFallZero s = .next t ∧ t.wires = { s.wires with doneB := false } ∧
        t.regs = { s.regs with accB := BitVec.ofNat 32 (2 * s.regs.accB.toNat),
                               cntB := BitVec.ofNat 8 (s.regs.cntB.toNat + 1) }) ∧
    (d.toNat ≤ 35 ∨ (220 ≤ d.toNat ∧ d.toNat ≤ 250) ∨ 350 ≤ d.toNat →
      decode (dselOf Config.hw .b ⟨false, d⟩ s.regs) = .ok .bDataFallBad ∧
      ∃ t, exec .bDataFallBad s = .next t ∧ t.wires = { s.wires with doneB := false } ∧
        t.regs = { s.regs with accB := BitVec.ofNat 32 (2 * s.regs.accB.toNat),
                               cntB := BitVec.ofNat 8 (s.regs.cntB.toNat + 1), phaseB := .idle })

/-- R110, R111: decoder B in DATA on a rising edge of any duration. With CNT_B other than 32 no register changes; with
CNT_B = 32 the decoder goes to IDLE and raises `done_b`, CNT_B and ACC_B left as they are, and `code_b` is ACC_B. That
no other transition sets `done_b` is CodeCompleteOnlyAtTheTargetCount. -/
def Obligations.DecoderBRowsOnRisingData : Prop :=
  ∀ (s : State) (d : Ticks), s.regs.phaseB = .data →
    (s.regs.cntB.toNat ≠ 32 →
      decode (dselOf Config.hw .b ⟨true, d⟩ s.regs) = .ok .bDataRiseMore ∧
      ∃ t, exec .bDataRiseMore s = .next t ∧ t.regs = s.regs ∧ t.wires = { s.wires with doneB := false }) ∧
    (s.regs.cntB.toNat = 32 →
      decode (dselOf Config.hw .b ⟨true, d⟩ s.regs) = .ok .bDataRiseDone ∧
      ∃ t, exec .bDataRiseDone s = .next t ∧ t.regs = { s.regs with phaseB := .idle } ∧
        t.wires = { s.wires with doneB := true } ∧ (ports t).codeB = s.regs.accB)

/-! ## The decoder shape -/

/-- R54, R76: for either decoder and every edge event, the transition function takes the row whose DSEL pattern
matches the selector formed before the transition. -/
def Obligations.TransitionFunctionTakesThePickedRow : Prop :=
  ∀ (x : Side) (e : EdgeEvent) (s : State),
    RunsPicked (dselOf Config.hw x e s.regs) s (decEdge Config.hw x e s)

/-- R84, for any descriptors: an edge whose duration is tested and lies on or outside the bounds of every window
tested leaves the decoder in IDLE with no code emitted. -/
def Obligations.DurationOutsideTestedWindowsCollapses : Prop :=
  ∀ (c : Params) (x : Side) (e : EdgeEvent) (s : State),
    let out := fun w : Window => e.dur.toNat ≤ w.lo.toNat ∨ w.hi.toNat ≤ e.dur.toNat
    (s.regs.phase x = .header ∧ e.level = true ∧ out (c.desc x).hl) ∨
    (s.regs.phase x = .header ∧ e.level = false ∧ out (c.desc x).hh) ∨
    (s.regs.phase x = .data ∧ e.level = false ∧ out (c.desc x).ds ∧ out (c.desc x).dl) →
    (decEdge c x e s).regs.phase x = .idle ∧ (decEdge c x e s).wires.done x = false

/-- R81: what each phase does with the saturated duration, or any duration above 989. -/
def Obligations.SaturatedDurationFailsEveryWindow : Prop :=
  ∀ (x : Side) (e : EdgeEvent) (s : State), 989 < e.dur.toNat →
    (s.regs.phase x = .idle → e.level = false → (decEdge Config.hw x e s).regs.phase x = .header) ∧
    (s.regs.phase x = .idle → e.level = true → (decEdge Config.hw x e s).regs.phase x = .idle) ∧
    (s.regs.phase x = .header → (decEdge Config.hw x e s).regs.phase x = .idle) ∧
    (s.regs.phase x = .data → e.level = false → (decEdge Config.hw x e s).regs.phase x = .idle) ∧
    (s.regs.phase x = .data → e.level = true →
      ((decEdge Config.hw x e s).wires.done x = true ↔ s.regs.cnt x = (Config.hw.desc x).width))

/-- R77, for any descriptors: code complete is raised on a rising edge in DATA at the target count and nowhere else;
it leaves the decoder in IDLE and the accumulators as they are. -/
def Obligations.CodeCompleteOnlyAtTheTargetCount : Prop :=
  ∀ (c : Params) (x : Side) (e : EdgeEvent) (s : State),
    ((decEdge c x e s).wires.done x = true ↔
      s.regs.phase x = .data ∧ e.level = true ∧ s.regs.cnt x = (c.desc x).width) ∧
    ((decEdge c x e s).wires.done x = true →
      (decEdge c x e s).regs.phase x = .idle ∧ codeOf x (decEdge c x e s).regs = codeOf x s.regs)

/-- R32 item 3, as one step: a decoder is in HEADER after an event only if the event was a falling edge or a rising
edge whose duration is inside header-low. -/
def Obligations.HeaderIsHeldOnlyByAFallOrAGoodRise : Prop :=
  ∀ (c : Params) (x : Side) (e : EdgeEvent) (s : State),
    (decEdge c x e s).regs.phase x = .header → e.level = false ∨ inWin (c.desc x).hl e.dur = true

/-- R78: a decoder's transition writes its own registers and its own `done` wire only, and what it does depends on its
own registers and the event only. -/
def Obligations.DecodersAreIndependent : Prop :=
  (∀ (c : Params) (e : EdgeEvent) (s : State),
    (∃ p n h l d, (decEdge c .a e s) =
      { s with regs := { s.regs with phaseA := p, cntA := n, accAHi := h, accALo := l },
               wires := { s.wires with doneA := d } }) ∧
    (∃ p n a d, (decEdge c .b e s) =
      { s with regs := { s.regs with phaseB := p, cntB := n, accB := a },
               wires := { s.wires with doneB := d } })) ∧
  ∀ (c : Params) (x : Side) (e : EdgeEvent) (s u : State),
    s.regs.phase x = u.regs.phase x → s.regs.cnt x = u.regs.cnt x → codeOf x s.regs = codeOf x u.regs →
    (decEdge c x e s).regs.phase x = (decEdge c x e u).regs.phase x ∧
    (decEdge c x e s).regs.cnt x = (decEdge c x e u).regs.cnt x ∧
    codeOf x (decEdge c x e s).regs = codeOf x (decEdge c x e u).regs ∧
    (decEdge c x e s).wires.done x = (decEdge c x e u).wires.done x

/-- R80, R74: from IDLE, a frame with every tested duration inside its window raises code complete at its closing
rising edge and at no edge before it; bit `WIDTH_X - 1 - i` of the code is the `(i+1)`-th bit received, 1 for a
data-long gap and 0 for a data-short one. The order of the bits is the spec's decision D6. -/
def Obligations.ValidFrameCompletesWithItsCode : Prop :=
  ∀ (x : Side) (s : State) (g low high close : Ticks) (bits : List (Ticks × Ticks)),
    s.regs.phase x = .idle → ValidFrame Config.hw x low high bits →
    let es := frameEdges g low high bits close
    let t := decRun Config.hw x es s
    t.wires.done x = true ∧ t.regs.phase x = .idle ∧
    (∀ i (h : i < bits.length),
      (codeOf x t.regs).getLsbD (bits.length - 1 - i) = inWin (Config.hw.desc x).dl (bits[i]).2) ∧
    ∀ n, 0 < n → n < es.length → (decRun Config.hw x (es.take n) s).wires.done x = false

/-- R80: on alternating edges, a decoder that starts in IDLE raises code complete only at the end of a valid frame:
"For all edge sequences that do not form a valid header, no code is ever emitted, regardless of length". -/
def Obligations.CodeCompleteOnlyAfterAValidFrame : Prop :=
  ∀ (x : Side) (s : State) (l : Bool) (es : List EdgeEvent),
    s.regs.phase x = .idle → es ≠ [] → Alternates l es →
    (decRun Config.hw x es s).wires.done x = true →
    ∃ before g low high bits close,
      es = before ++ frameEdges g low high bits close ∧ ValidFrame Config.hw x low high bits

/-! ## RESOLVE -/

/-- R115 to R118 at stage A: how a row is picked and what it does. On a hit `k` is the key and A wins, whatever
ACC_A_HI and ACC_B hold; stage B is then RES.B.SKIP.AWON, which writes nothing. That a row run where it is not picked
has the same effect is the model's (log entry 4), and so is that RES.A.HIT run on no hit takes `k` from the ROM word's
low byte (log entry 17). -/
def Obligations.ResolverRowsOfStageA : Prop :=
  ∀ s : State,
    (s.wires.doneA = false → decode (aselOf Config.hw s) = .ok .resASkip) ∧
    (s.wires.doneA = true →
      decode (aselOf Config.hw s) =
        match Config.hw.romA s.regs.accALo with
        | .hit _ => .ok .resAHit
        | .ignored => .ok .resAIgn
        | .miss => .ok .resAMiss) ∧
    exec .resASkip s = .next s ∧
    (∃ t, exec .resAHit s = .next t ∧ t.regs = s.regs ∧
      t.wires = { s.wires with k := romKey (Config.hw.romA s.regs.accALo), aWon := true }) ∧
    exec .resAIgn s = .next s ∧
    (∃ t, exec .resAMiss s = .next t ∧ t.regs = s.regs ∧ t.wires = { s.wires with unkA := true }) ∧
    (s.wires.aWon = true → decode (bselOf Config.hw s) = .ok .resBSkipAwon) ∧
    exec .resBSkipAwon s = .next s

/-- R115, R119 to R121 at stage B: how a row is picked and what it does. That a row run where it is not picked has the
same effect is the model's (log entry 4), and so is that RES.B.HIT run on no hit takes `k` from the ROM word's low
byte (log entry 17). -/
def Obligations.ResolverRowsOfStageB : Prop :=
  ∀ s : State,
    (s.wires.aWon = false → s.wires.doneB = false → decode (bselOf Config.hw s) = .ok .resBSkipNone) ∧
    (s.wires.aWon = false → s.wires.doneB = true →
      decode (bselOf Config.hw s) =
        match Config.hw.romB s.regs.accB with
        | .hit _ => .ok .resBHit
        | .ignored => .ok .resBIgn
        | .miss => .ok .resBMiss) ∧
    exec .resBSkipNone s = .next s ∧
    (∃ t, exec .resBHit s = .next t ∧ t.regs = s.regs ∧
      t.wires = { s.wires with k := romKey (Config.hw.romB s.regs.accB) }) ∧
    exec .resBIgn s = .next s ∧
    (∃ t, exec .resBMiss s = .next t ∧ t.regs = s.regs ∧ t.wires = { s.wires with unkB := true })

/-- R115, for any configuration whose hits have a key other than 0x00 (R36): RESOLVE writes no register; A's hit wins
outright, otherwise B's completed code is looked up; a ROM is consulted only for a decoder that completed in this
POLL. -/
def Obligations.ResolveTriesAThenB : Prop :=
  ∀ (c : Params) (s : State),
    let hitA := s.wires.doneA && (romKey (c.romA s.regs.accALo) != 0)
    (∀ code, c.romA code ≠ .hit 0) →
    (resolve c s).regs = s.regs ∧
    (resolve c s).wires =
      { s.wires with
        aWon := hitA
        k :=
          if hitA then romKey (c.romA s.regs.accALo)
          else
            match s.wires.doneB, c.romB s.regs.accB with
            | true, .hit k => k
            | _, _ => c.nokey
        unkA := s.wires.doneA && (c.romA s.regs.accALo == .miss)
        unkB := !hitA && (s.wires.doneB && (c.romB s.regs.accB == .miss)) }

/-- R122, R131, R115: what a POLL shows on its wires. The unknown-code wires are raised by exactly a completed code
that was looked up and missed; the key is a hit of a completed code, A's before B's. -/
def Obligations.PollShowsWhatTheRomsHold : Prop :=
  ∀ (s : State) (ir : Bool), ∃ t, exec (.poll ir) s = .next t ∧
    (t.wires.unkA = true ↔ t.wires.doneA = true ∧ Config.hw.romA t.regs.accALo = .miss) ∧
    (t.wires.unkB = true ↔
      t.wires.doneB = true ∧ t.wires.aWon = false ∧ Config.hw.romB t.regs.accB = .miss) ∧
    (t.wires.aWon = true ↔ t.wires.doneA = true ∧ Config.hw.romA t.regs.accALo = .hit t.wires.k) ∧
    (t.wires.k ≠ 0 ↔
      t.wires.aWon = true ∨
      (t.wires.aWon = false ∧ t.wires.doneB = true ∧ Config.hw.romB t.regs.accB = .hit t.wires.k))

/-! ## LATCH and the idle check -/

/-- R123: a real key picks LATCH.SET, which stores it and sets the indicator; NOKEY picks LATCH.HOLD, which leaves
both as they are. That LATCH.SET run where it is not picked, with `k` at NOKEY, has the same effect is the model's
(log entry 4). -/
def Obligations.LatchRowsStoreARealKey : Prop :=
  ∀ s : State,
    (s.wires.k ≠ 0 → decode (lselOf Config.hw s) = .ok .latchSet) ∧
    (s.wires.k = 0 → decode (lselOf Config.hw s) = .ok .latchHold) ∧
    (∃ t, exec .latchSet s = .next t ∧ t.regs = { s.regs with key := s.wires.k, act := true } ∧
      t.wires = s.wires) ∧
    exec .latchHold s = .next s

/-- R124, R125, R126: how each row of the idle check is picked and what it writes. The threshold row writes KEY only
(the spec's decision D15), and no row clears TOV (decision D16). That a row run where it is not picked has the same
effect is the model's (log entry 4). -/
def Obligations.IdleRowsReleaseTheKey : Prop :=
  ∀ s : State,
    (.idleOvf ∈ picks (iselOf Config.hw s) ↔ s.regs.tov = true) ∧
    (.idleThresh ∈ picks (iselOf Config.hw s) ↔ 20000 < s.regs.tcnt.toNat) ∧
    (.idleNone ∈ picks (iselOf Config.hw s) ↔ s.regs.tov = false ∧ s.regs.tcnt.toNat ≤ 20000) ∧
    (∃ t, exec .idleOvf s = .next t ∧ t.regs = { s.regs with key := 0, act := false } ∧ t.wires = s.wires) ∧
    (∃ t, exec .idleThresh s = .next t ∧ t.regs = { s.regs with key := 0 } ∧ t.wires = s.wires) ∧
    exec .idleNone s = .next s

/-- R126: the rows the idle check picks, run in order, release KEY when either test holds and clear ACT when TOV is
set. -/
def Obligations.IdleCheckRunsBothTests : Prop :=
  ∀ s : State, ∃ t, RunsAllPicked (iselOf Config.hw s) s t ∧
    t.regs = { s.regs with
      key := if s.regs.tov = true ∨ 20000 < s.regs.tcnt.toNat then 0 else s.regs.key
      act := if s.regs.tov = true then false else s.regs.act } ∧
    t.wires = s.wires

/-! ## The whole machine -/

/-- R133: every operation is total; none stops. That the environment's later choices stay is the model's (log
entry 1). -/
def Obligations.EveryOperationAnswersANextState : Prop :=
  ∀ (i : Instr) (s : State), ∃ t, exec i s = .next t ∧ t.inputs = s.inputs

/-- R133: on a schedule of the block's own strobes no step stops. -/
def Obligations.BlockSchedulesNeverStop : Prop :=
  ∀ s : State, BlockSchedule s → ∃ t, step s = .next t ∧ BlockSchedule t

/-- R32: the invariants hold after RESET. -/
def Obligations.InvariantsHoldAtReset : Prop :=
  Inv Config.hw State.reset

/-- R32 items 4 and 5, and what item 6 rests on: every step keeps the invariants, from every state that has them. -/
def Obligations.EveryStepKeepsTheInvariants : Prop :=
  ∀ s t : State, Inv Config.hw s → step s = .next t → Inv Config.hw t

/-- R128, R32 item 6: the two decoders never complete in the same step. -/
def Obligations.DecodersNeverCompleteTogether : Prop :=
  ∀ s t : State, Inv Config.hw s → step s = .next t → ¬ (t.wires.doneA = true ∧ t.wires.doneB = true)

/-- R16, R64: among the block's operations, TOV is cleared by RESET and by a POLL that saw an edge, and set by a TICK
that wraps the counter, only (the idle check does not clear it: the spec's decision D16). -/
def Obligations.OverflowFlagChangesOnlyByWrapEdgeOrReset : Prop :=
  ∀ (i : Instr) (s t : State), IsBlockOp i = true → exec i s = .next t →
    (s.regs.tov = true → t.regs.tov = false → i = .reset ∨ t.wires.edge = true) ∧
    (s.regs.tov = false → t.regs.tov = true →
      s.regs.tcnt = 0xFFFF ∧ (i = .tick ∨ ∃ ir, i = .tickpoll ir))

/-- R25, R124: among the block's operations, ACT is set only with a key that is stored, and cleared only by RESET and
by the overflow path of the idle check (the spec's decision D15). -/
def Obligations.ActivityFallsOnlyOnOverflowOrReset : Prop :=
  ∀ (i : Instr) (s t : State), IsBlockOp i = true → exec i s = .next t →
    (s.regs.act = false → t.regs.act = true → t.wires.k ≠ 0 ∧ t.regs.key = t.wires.k) ∧
    (s.regs.act = true → t.regs.act = false →
      i = .reset ∨ (t.regs.tov = true ∧ t.wires.edge = false))

/-- R14: PREV is written by POLL, with the sampled level, and by RESET, and by nothing else. -/
def Obligations.PrevIsTheLevelOfTheLastPoll : Prop :=
  ∀ (i : Instr) (s t : State), exec i s = .next t →
    t.regs.prev =
      match i with
      | .reset => true
      | .poll ir => ir
      | .tickpoll ir => ir
      | _ => s.regs.prev

/-- R160, R132: an operation of the block that sees no edge and is no RESET leaves both decoders as they are, through
any silence. -/
def Obligations.DecodersHoldWithoutAnEdge : Prop :=
  ∀ (i : Instr) (s t : State), IsBlockOp i = true → i ≠ .reset → exec i s = .next t → t.wires.edge = false →
    t.regs.phaseA = s.regs.phaseA ∧ t.regs.cntA = s.regs.cntA ∧ t.regs.accAHi = s.regs.accAHi ∧
    t.regs.accALo = s.regs.accALo ∧ t.regs.phaseB = s.regs.phaseB ∧ t.regs.cntB = s.regs.cntB ∧
    t.regs.accB = s.regs.accB

/-- R97: the high accumulator of decoder A never influences key resolution. Two runs of any length that start in
states that differ in ACC_A_HI only stay so, and show the same key, indicator and diagnostics. -/
def Obligations.HighAccumulatorNeverInfluencesTheKey : Prop :=
  ∀ (n : Nat) (s t : State) (h : BitVec 16), core.run n s = .next t →
    ∃ h' t', core.run n { s with regs := { s.regs with accAHi := h } } = .next t' ∧
      t' = { t with regs := { t.regs with accAHi := h' } } ∧
      (ports t').keyOut = (ports t).keyOut ∧ (ports t').actOut = (ports t).actOut ∧
      (ports t').unkA = (ports t).unkA ∧ (ports t').unkB = (ports t).unkB

/-- R78: KEY and ACT never influence the sampler or a decoder. Two runs of any length that start in states that differ
in KEY and ACT only stay so. -/
def Obligations.LatchNeverInfluencesTheDecoders : Prop :=
  ∀ (n : Nat) (s t : State) (k : KeyCode) (a : Bool), core.run n s = .next t →
    ∃ k' a', core.run n { s with regs := { s.regs with key := k, act := a } } =
      .next { t with regs := { t.regs with key := k', act := a' } }

/-- R68: on a schedule of the block's strobes without RESET the edge events strictly alternate in level, the first the
complement of PREV. -/
def Obligations.EdgeEventsAlternate : Prop :=
  ∀ (n : Nat) (s : State), BlockSchedule s → NoReset s → Alternates (!s.regs.prev) (events n s)

/-- R70: TCNT and TOV are 0 after an edge event and after RESET (PollOnEdgeSamplesDecodesAndLatches,
ResetWritesEveryRegister). From there, over every schedule of TICKs, NOPs and POLLs and TICKPOLLs that see no edge,
the duration of the next edge event is the number of TICKs in between if that is below 65536, and 0xFFFF otherwise, a
TICK of the closing TICKPOLL counted; and the counter and its flag are at 0 again. -/
def Obligations.DurationCountsTheTicksBetweenPolls : Prop :=
  ∀ (s : State) (before : List Selector) (last : Selector) (rest : List Selector),
    s.regs.tcnt = 0 → s.regs.tov = false → s.inputs = before ++ last :: rest →
    (∀ w ∈ before, SeesNoEdge s.regs.prev w) → PollsAt (!s.regs.prev) last →
    let n := tickCount (before ++ [last])
    ∃ t, core.run (before.length + 1) s = .next t ∧
      t.wires.event = some ⟨!s.regs.prev, if n < 65536 then BitVec.ofNat 16 n else 0xFFFF⟩ ∧
      t.regs.prev = (!s.regs.prev) ∧ t.regs.tcnt = 0 ∧ t.regs.tov = false ∧ t.inputs = rest

/-- R165, R127: from every state, over every schedule of TICKs, NOPs and POLLs and TICKPOLLs that see no edge, at
least 20001 TICKs and then one POLL (or a TICKPOLL, its TICK counted) with no edge in between release the key; at
least 65536 TICKs clear the indicator too. -/
def Obligations.SilenceReleasesTheKey : Prop :=
  ∀ (s : State) (before : List Selector) (last : Selector) (rest : List Selector),
    s.inputs = before ++ last :: rest →
    (∀ w ∈ before, SeesNoEdge s.regs.prev w) → PollsAt s.regs.prev last →
    let n := tickCount (before ++ [last])
    20001 ≤ n →
    ∃ t, core.run (before.length + 1) s = .next t ∧ (ports t).keyOut = 0 ∧
      (65536 ≤ n → (ports t).actOut = false)

/-- R80, R115, R123: from a state with both decoders in IDLE, the edges of a valid Protocol A frame leave KEY and ACT
untouched until the closing rising edge; there the code's low 32 bits are looked up in ROM_A, a hit is stored, and
decoder B has completed nothing. -/
def Obligations.ProtocolAFrameLatchesItsKeyAtTheLastEdge : Prop :=
  ∀ (s : State) (g low high close : Ticks) (bits : List (Ticks × Ticks)),
    s.regs.phaseA = .idle → s.regs.phaseB = .idle → ValidFrame Config.hw .a low high bits →
    let es := frameEdges g low high bits close
    let t := evRun Config.hw es s
    (∀ n, n < es.length →
      (evRun Config.hw (es.take n) s).regs.key = s.regs.key ∧
      (evRun Config.hw (es.take n) s).regs.act = s.regs.act) ∧
    t.wires.doneA = true ∧ t.wires.doneB = false ∧ t.wires.unkB = false ∧
    match Config.hw.romA t.regs.accALo with
    | .hit k => t.regs.key = k ∧ t.regs.act = true ∧ t.wires.unkA = false
    | .ignored => t.regs.key = s.regs.key ∧ t.regs.act = s.regs.act ∧ t.wires.unkA = false
    | .miss => t.regs.key = s.regs.key ∧ t.regs.act = s.regs.act ∧ t.wires.unkA = true
end

