-- ==== Sys2Proof/Laws/Config.lean ====
section
/-! SUPPORT. The fields of this hardware's configuration, and that it is a legal one whatever its free contents are. -/

namespace Sys2Proof.Config

@[simp] theorem two_pow_tickW : (2 : Nat) ^ tickW = 65536 := rfl
@[simp] theorem two_pow_cntW : (2 : Nat) ^ cntW = 256 := rfl
@[simp] theorem two_pow_keyW : (2 : Nat) ^ keyW = 256 := rfl

/-- A tick count is below `2^TICK_W`, as a number (R15). -/
theorem ticks_lt (v : Ticks) : v.toNat < 65536 := v.isLt

/-- A bit count is below `2^CNT_W`, as a number (R18). -/
theorem count_lt (v : Count) : v.toNat < 256 := v.isLt

/-- The largest tick count: 65535, in the one spelling the other lemmas use (R7). -/
@[simp] theorem allOnes_tickW : BitVec.allOnes tickW = (0xFFFF : Ticks) := by decide

@[simp] theorem hw_desc_a : hw.desc .a = descA := rfl
@[simp] theorem hw_desc_b : hw.desc .b = descB := rfl
@[simp] theorem hw_tickW : hw.tickW = 16 := rfl
@[simp] theorem hw_cntW : hw.cntW = 8 := rfl
@[simp] theorem hw_keyW : hw.keyW = 8 := rfl
@[simp] theorem hw_descA : hw.descA = descA := rfl
@[simp] theorem hw_descB : hw.descB = descB := rfl
@[simp] theorem hw_idleThresh : hw.idleThresh = 20000 := rfl
@[simp] theorem hw_durSat : hw.durSat = 0xFFFF := rfl
@[simp] theorem hw_prevReset : hw.prevReset = true := rfl
@[simp] theorem hw_nokey : hw.nokey = 0 := rfl

/-- NOKEY is no member of KEYS (R7). -/
theorem nokey_not_mem_keys : (0 : KeyCode) ∉ keys := by
  simp [keys]

/-- A result read through KEYS is legal for KEYS (R36). -/
theorem within_legal (ks : List KeyCode) (r : RomResult) : (r.within ks).legal ks = true := by
  cases r with
  | miss => rfl
  | ignored => rfl
  | hit k =>
    by_cases h : ks.contains k = true
    · simp only [RomResult.within, h, if_true, RomResult.legal]
    · simp only [RomResult.within, h, RomResult.legal]; rfl

/-- A legal result is its own image: the free contents reach every legal ROM. -/
theorem within_of_legal (ks : List KeyCode) (r : RomResult) (h : r.legal ks = true) : r.within ks = r := by
  cases r with
  | miss => rfl
  | ignored => rfl
  | hit k => simp only [RomResult.legal] at h; simp only [RomResult.within, h, if_true]

/-- TICK_PERIOD is positive (D19). -/
theorem tickPeriod_pos : 0 < tickPeriod := by
  unfold tickPeriod
  split
  · assumption
  · exact one_pos

/-- A positive period is its own image: the free value reaches every one. -/
theorem tickPeriod_of_pos (h : 0 < tickTime) : tickPeriod = tickTime := if_pos h

/-- R7's and R36's constraints hold of this hardware. -/
theorem hw_wf : hw.WF where
  tickW := rfl
  cntW := rfl
  keyW := rfl
  durSat := by decide
  descA := by decide
  descB := by decide
  nokey := rfl
  keys := nokey_not_mem_keys
  romA := fun code => within_legal keys (romAContents code)
  romB := fun code => within_legal keys (romBContents code)
  tickPeriod := tickPeriod_pos

/-- A hit of a legal ROM gives a key of KEYS, which is not NOKEY (R36). -/
theorem hit_mem_keys (x : Side) (code : Code) (k : KeyCode) (h : Machine.romRead hw x code = .hit k) :
    k ∈ hw.keys ∧ k ≠ 0 := by
  have hl : (Machine.romRead hw x code).legal hw.keys = true := by
    cases x
    · exact hw_wf.romA code
    · exact hw_wf.romB code
  rw [h] at hl
  have hm : k ∈ hw.keys := by simpa [RomResult.legal] using hl
  exact ⟨hm, fun h0 => nokey_not_mem_keys (h0 ▸ hm)⟩

end Sys2Proof.Config
end

