-- ==== Sys2Proof/Laws/Decode.lean ====
section
/-! SUPPORT. What the decoder answers at each decision point, on the selectors the machine forms there. -/

namespace Sys2Proof.Machine

/-- The row of decoder `x` for the named conditions of R54. -/
def dselRow (x : Side) (p : Phase) (level hl hh ds dl full : Bool) : Instr :=
  match x, p, level with
  | .a, .idle, false => .aIdleFall
  | .a, .idle, true => .aIdleRise
  | .a, .header, true => if hl then .aHdrRiseOk else .aHdrRiseBad
  | .a, .header, false => if hh then .aHdrFallOk else .aHdrFallBad
  | .a, .data, false => if dl then .aDataFallOne else if ds then .aDataFallZero else .aDataFallBad
  | .a, .data, true => if full then .aDataRiseDone else .aDataRiseMore
  | .b, .idle, false => .bIdleFall
  | .b, .idle, true => .bIdleRise
  | .b, .header, true => if hl then .bHdrRiseOk else .bHdrRiseBad
  | .b, .header, false => if hh then .bHdrFallOk else .bHdrFallBad
  | .b, .data, false => if dl then .bDataFallOne else if ds then .bDataFallZero else .bDataFallBad
  | .b, .data, true => if full then .bDataRiseDone else .bDataRiseMore

/-- DSEL decodes to the row of its named conditions (R54). -/
theorem decode_dselOf (c : Params) (x : Side) (e : EdgeEvent) (r : Regs) :
    decode (dselOf c x e r) =
      .ok (dselRow x (r.phase x) e.level (inWin (c.desc x).hl e.dur) (inWin (c.desc x).hh e.dur)
        (inWin (c.desc x).ds e.dur) (inWin (c.desc x).dl e.dur) (full c x r)) := by
  have bits : ∀ p, ∀ level hl hh ds dl full ir : Bool,
      decode ⟨.dsel x,
        packBits [(phaseCode p).getLsbD 1, (phaseCode p).getLsbD 0, level, hl, hh, ds, dl, full], ir⟩ =
      .ok (dselRow x p level hl hh ds dl full) := by
    intro p
    cases x <;> cases p <;> decide
  exact bits _ _ _ _ _ _ _ _

/-- SSEL decodes by `edge` and TOV (R55). -/
theorem decode_sselOf (ir : Bool) (r : Regs) :
    decode (sselOf ir r) =
      .ok (if ir = r.prev then .sampleNoedge else if r.tov then .sampleEdgeOvf ir else .sampleEdge ir) := by
  have bits : ∀ ir prev tov : Bool, decode ⟨.ssel, packBits [ir != prev, tov], ir⟩ =
      .ok (if ir = prev then .sampleNoedge else if tov then .sampleEdgeOvf ir else .sampleEdge ir) := by decide
  exact bits _ _ _

/-- ASEL decodes by the completion and the kind of the ROM result, where a hit's key is not 0x00 (R55, R56). -/
theorem decode_aselOf (c : Params) (s : State) (h : c.romA s.regs.accALo ≠ .hit 0) :
    decode (aselOf c s) =
      .ok (if s.wires.doneA then
        match c.romA s.regs.accALo with
        | .hit _ => .resAHit
        | .ignored => .resAIgn
        | .miss => .resAMiss
      else .resASkip) := by
  cases hd : s.wires.doneA
  · simp only [aselOf, hd, Bool.false_eq_true, if_false]; decide
  · cases hr : c.romA s.regs.accALo with
    | miss => simp only [aselOf, hd, romRead, lookupCode, hr, if_true, romClass, romKey, romFound]; decide
    | ignored => simp only [aselOf, hd, romRead, lookupCode, hr, if_true, romClass, romKey, romFound]; decide
    | hit k =>
      have hk : (k != 0) = true := by
        simpa using fun h0 : k = 0 => h (by rw [hr, h0])
      simp only [aselOf, hd, romRead, lookupCode, hr, if_true, romClass, romKey, romFound, hk]; decide

/-- BSEL decodes by A's win, B's completion and the kind of the ROM result, where a hit's key is not 0x00
(R55, R56). -/
theorem decode_bselOf (c : Params) (s : State) (h : c.romB s.regs.accB ≠ .hit 0) :
    decode (bselOf c s) =
      .ok (if s.wires.aWon then .resBSkipAwon
      else if s.wires.doneB then
        match c.romB s.regs.accB with
        | .hit _ => .resBHit
        | .ignored => .resBIgn
        | .miss => .resBMiss
      else .resBSkipNone) := by
  cases ha : s.wires.aWon
  · cases hd : s.wires.doneB
    · simp only [bselOf, ha, hd, Bool.and_false, Bool.false_eq_true, if_false]; decide
    · cases hr : c.romB s.regs.accB with
      | miss =>
        simp only [bselOf, ha, hd, romRead, lookupCode, hr, Bool.not_false, Bool.and_true, Bool.false_eq_true, if_true,
          if_false, romClass, romKey, romFound]
        decide
      | ignored =>
        simp only [bselOf, ha, hd, romRead, lookupCode, hr, Bool.not_false, Bool.and_true, Bool.false_eq_true, if_true,
          if_false, romClass, romKey, romFound]
        decide
      | hit k =>
        have hk : (k != 0) = true := by
          simpa using fun h0 : k = 0 => h (by rw [hr, h0])
        simp only [bselOf, ha, hd, romRead, lookupCode, hr, Bool.not_false, Bool.and_true, Bool.false_eq_true, if_true,
          if_false, romClass, romKey, romFound, hk]
        decide
  · cases hd : s.wires.doneB <;>
      simp only [bselOf, ha, hd, Bool.not_true, Bool.false_and, Bool.false_eq_true, if_true, if_false] <;> decide

/-- LSEL decodes by `kvalid` (R55). -/
theorem decode_lselOf (c : Params) (s : State) :
    decode (lselOf c s) = .ok (if s.wires.k = c.nokey then .latchHold else .latchSet) := by
  by_cases h : s.wires.k = c.nokey
  · have hk : kvalid c s.wires = false := by simp [kvalid, h]
    simp only [lselOf, hk, h, if_true]; rfl
  · have hk : kvalid c s.wires = true := by simp [kvalid, h]
    simp only [lselOf, hk, h, if_false]; rfl

/-- ISEL picks by TOV and the threshold, both rows where both hold (R55, R126). -/
theorem picks_iselOf (c : Params) (s : State) :
    picks (iselOf c s) =
      match s.regs.tov, overThresh c s.regs with
      | true, true => [.idleOvf, .idleThresh]
      | true, false => [.idleOvf]
      | false, true => [.idleThresh]
      | false, false => [.idleNone] := by
  unfold iselOf
  cases s.regs.tov <;> cases overThresh c s.regs <;> rfl

/-- BCMD decodes by its bits: `rst` wins, then `tick` and `poll` (R48). -/
theorem decode_bcmd (rst tick poll ir : Bool) :
    decode ⟨.bcmd, packBits [rst, tick, poll], ir⟩ =
      .ok (if rst then .reset
        else match tick, poll with
          | true, true => .tickpoll ir
          | true, false => .tick
          | false, true => .poll ir
          | false, false => .nop) := by
  revert rst tick poll ir
  decide

/-- A selector of the block's strobes is one of the eight (R48). -/
theorem blockLevel_strobes (w : Selector) (h : w.blockLevel = true) :
    ∃ rst tick poll, w = ⟨.bcmd, packBits [rst, tick, poll], w.irIn⟩ := by
  obtain ⟨p, v, ir⟩ := w
  simp only [Selector.blockLevel, Bool.and_eq_true, beq_iff_eq] at h
  obtain ⟨rfl, hf⟩ := h
  have hv : v.toNat < 8 := of_decide_eq_true hf
  refine ⟨v.getLsbD 2, v.getLsbD 1, v.getLsbD 0, ?_⟩
  have key : ∀ v : Fin 8, BitVec.ofNat 8 v.val =
      packBits [(BitVec.ofNat 8 v.val).getLsbD 2, (BitVec.ofNat 8 v.val).getLsbD 1, (BitVec.ofNat 8 v.val).getLsbD 0] := by
    decide
  have := key ⟨v.toNat, hv⟩
  simp only [BitVec.ofNat_toNat, BitVec.setWidth_eq] at this
  rw [← this]

end Sys2Proof.Machine
end

