-- ==== Sys2Proof/Laws/Operands.lean ====
section
/-! SUPPORT. One lemma for each operand form and flag computation: all it can answer. -/

namespace Sys2Proof.Machine

/-- The window test, in natural numbers (R72). -/
theorem inWin_iff (w : Window) (d : Ticks) : inWin w d = true ↔ w.lo.toNat < d.toNat ∧ d.toNat < w.hi.toNat := by
  simp [inWin]

/-- The three answers of the classifier (R73). -/
theorem classify_cases (desc : Descriptor) (d : Ticks) :
    (inWin desc.dl d = true ∧ classify desc d = ⟨true, false⟩) ∨
    (inWin desc.dl d = false ∧ inWin desc.ds d = true ∧ classify desc d = ⟨false, false⟩) ∨
    (inWin desc.dl d = false ∧ inWin desc.ds d = false ∧ classify desc d = ⟨false, true⟩) := by
  unfold classify
  cases inWin desc.dl d <;> cases inWin desc.ds d <;> simp

/-- "The appended bit equals `in_dl` in all three cases" (R73). -/
theorem classify_bit (desc : Descriptor) (d : Ticks) : (classify desc d).bit = inWin desc.dl d := by
  obtain ⟨h, hc⟩ | ⟨h, -, hc⟩ | ⟨h, -, hc⟩ := classify_cases desc d <;> rw [hc, h]

theorem classify_bad (desc : Descriptor) (d : Ticks) :
    (classify desc d).bad = (!inWin desc.dl d && !inWin desc.ds d) := by
  obtain ⟨h, hc⟩ | ⟨h, h', hc⟩ | ⟨h, h', hc⟩ := classify_cases desc d <;> simp [hc, h] <;> simp [h']

/-- A shift-in is `2 v + b` modulo `2^n` (R9). -/
theorem shiftIn_toNat {n : Nat} (v : BitVec n) (b : Bool) (hn : 0 < n) :
    (shiftIn v b).toNat = (2 * v.toNat + b.toNat) % 2 ^ n := by
  have h1 : 1 < 2 ^ n := Nat.one_lt_two_pow (by omega)
  have hb : b.toNat % 2 ^ n = b.toNat := Nat.mod_eq_of_lt (by cases b <;> simp; omega)
  obtain ⟨m, rfl⟩ : ∃ m, n = m + 1 := ⟨n - 1, by omega⟩
  simp only [shiftIn, BitVec.toNat_or, BitVec.toNat_shiftLeft, BitVec.toNat_setWidth, BitVec.toNat_ofBool, hb,
    Nat.shiftLeft_eq, pow_one]
  have e : v.toNat * 2 % 2 ^ (m + 1) = 2 * (v.toNat % 2 ^ m) := by
    rw [pow_succ, Nat.mul_mod_mul_right, Nat.mul_comm]
  have e2 : (2 * v.toNat + b.toNat) % 2 ^ (m + 1) = 2 * (v.toNat % 2 ^ m) + b.toNat := by
    have hlt : v.toNat % 2 ^ m < 2 ^ m := Nat.mod_lt _ (by positivity)
    have hd : v.toNat = 2 ^ m * (v.toNat / 2 ^ m) + v.toNat % 2 ^ m := (Nat.div_add_mod _ _).symm
    have hb2 : b.toNat < 2 := by cases b <;> simp
    have hrw : 2 * v.toNat + b.toNat = 2 ^ (m + 1) * (v.toNat / 2 ^ m) + (2 * (v.toNat % 2 ^ m) + b.toNat) := by
      rw [pow_succ]; nlinarith
    rw [hrw, Nat.mul_add_mod, Nat.mod_eq_of_lt]
    rw [pow_succ]; omega
  rw [e, e2]
  have := Nat.two_pow_add_eq_or_of_lt (i := 1) (b := b.toNat) (by cases b <;> simp) (v.toNat % 2 ^ m)
  simpa [Nat.mul_comm] using this.symm

/-- The tick counter is `TCNT + 1` modulo 65536 (R66). -/
theorem tcntNext_toNat (r : Regs) : (tcntNext r).toNat = (r.tcnt.toNat + 1) % 65536 := by
  unfold tcntNext
  rw [Config.allOnes_tickW]
  split
  · next h => simp [h]
  · simp [BitVec.toNat_add]

theorem tovNext_eq (r : Regs) : tovNext r = (r.tov || r.tcnt == 0xFFFF) := by
  unfold tovNext
  rw [Config.allOnes_tickW]
  by_cases h : r.tcnt = 0xFFFF
  · simp [h]
  · rw [if_neg h, beq_eq_false_iff_ne.mpr h, Bool.or_false]

theorem overThresh_iff (c : Params) (r : Regs) : overThresh c r = true ↔ c.idleThresh.toNat < r.tcnt.toNat := by
  simp [overThresh]

/-- The low part of a word with one bit above it. -/
theorem append_low {n : Nat} (f : Bool) (v : BitVec n) : (BitVec.ofBool f ++ v).setWidth n = v := by
  ext i hi
  rw [BitVec.getElem_setWidth, BitVec.getLsbD_append]
  simp [hi]

/-- The bit above. -/
theorem append_top {n : Nat} (f : Bool) (v : BitVec n) : (BitVec.ofBool f ++ v).getLsbD n = f := by
  rw [BitVec.getLsbD_append]
  simp

/-- Every edge event is its word's (R49). -/
theorem ofWord_word (e : EdgeEvent) : EdgeEvent.ofWord e.word = e := by
  obtain ⟨l, d⟩ := e
  simp only [EdgeEvent.ofWord, EdgeEvent.word, append_low, append_top]

/-- Every ROM result whose key is not 0x00 is its word's (R37). -/
theorem romOfWord_word (r : RomResult) (h : ∀ k, r = .hit k → k ≠ 0) : romOfWord (romWord r) = some r := by
  cases r with
  | miss => rfl
  | ignored => rfl
  | hit k => simp only [romOfWord, romWord, romFound, romKey, append_low, append_top, if_true, if_neg (h k rfl)]

/-- The phase of a phase code (R50). -/
theorem phaseOfCode_phaseCode (p : Phase) : phaseOfCode (phaseCode p) = some p := by
  cases p <;> rfl

/-- No phase has ERROR's code (R50, R57). -/
theorem phaseCode_ne_error (p : Phase) : phaseCode p ≠ errorCode := by
  cases p <;> decide

/-- A shift-in, as the number the spec writes: `trunc_n(2 v + b)` (R9). -/
theorem shiftIn_eq_ofNat {n : Nat} (v : BitVec n) (b : Bool) (hn : 0 < n) :
    shiftIn v b = BitVec.ofNat n (2 * v.toNat + b.toNat) := by
  apply BitVec.eq_of_toNat_eq
  rw [shiftIn_toNat v b hn, BitVec.toNat_ofNat]

/-- The tick counter, as the number the spec writes (R66). -/
theorem tcntNext_eq_ofNat (r : Regs) : tcntNext r = BitVec.ofNat 16 (r.tcnt.toNat + 1) := by
  apply BitVec.eq_of_toNat_eq
  rw [tcntNext_toNat, BitVec.toNat_ofNat, Config.two_pow_tickW]

/-- A count, as the number the spec writes (R79). -/
theorem count_succ_eq_ofNat (v : Count) : v + 1 = BitVec.ofNat 8 (v.toNat + 1) := by
  apply BitVec.eq_of_toNat_eq
  simp [BitVec.toNat_add]

end Sys2Proof.Machine
end

