-- ==== Sys2Proof/Laws/State.lean ====
section
/-! SUPPORT. One lemma per field of State per writer of Machine/Ops.lean: what the writer leaves in `regs`, in `wires`
and in `inputs`. Each is true by rfl, so that no later proof unfolds a record update. -/

namespace Sys2Proof.Machine

variable (s : State)

@[simp] theorem State.setPrev_regs (v : Bool) : (s.setPrev v).regs = { s.regs with prev := v } := rfl
@[simp] theorem State.setPrev_wires (v : Bool) : (s.setPrev v).wires = s.wires := rfl
@[simp] theorem State.setPrev_inputs (v : Bool) : (s.setPrev v).inputs = s.inputs := rfl

@[simp] theorem State.setTcnt_regs (v : Ticks) : (s.setTcnt v).regs = { s.regs with tcnt := v } := rfl
@[simp] theorem State.setTcnt_wires (v : Ticks) : (s.setTcnt v).wires = s.wires := rfl
@[simp] theorem State.setTcnt_inputs (v : Ticks) : (s.setTcnt v).inputs = s.inputs := rfl

@[simp] theorem State.setTov_regs (v : Bool) : (s.setTov v).regs = { s.regs with tov := v } := rfl
@[simp] theorem State.setTov_wires (v : Bool) : (s.setTov v).wires = s.wires := rfl
@[simp] theorem State.setTov_inputs (v : Bool) : (s.setTov v).inputs = s.inputs := rfl

@[simp] theorem State.setAccAHi_regs (v : BitVec 16) : (s.setAccAHi v).regs = { s.regs with accAHi := v } := rfl
@[simp] theorem State.setAccAHi_wires (v : BitVec 16) : (s.setAccAHi v).wires = s.wires := rfl
@[simp] theorem State.setAccAHi_inputs (v : BitVec 16) : (s.setAccAHi v).inputs = s.inputs := rfl

@[simp] theorem State.setAccALo_regs (v : BitVec 32) : (s.setAccALo v).regs = { s.regs with accALo := v } := rfl
@[simp] theorem State.setAccALo_wires (v : BitVec 32) : (s.setAccALo v).wires = s.wires := rfl
@[simp] theorem State.setAccALo_inputs (v : BitVec 32) : (s.setAccALo v).inputs = s.inputs := rfl

@[simp] theorem State.setAccB_regs (v : BitVec 32) : (s.setAccB v).regs = { s.regs with accB := v } := rfl
@[simp] theorem State.setAccB_wires (v : BitVec 32) : (s.setAccB v).wires = s.wires := rfl
@[simp] theorem State.setAccB_inputs (v : BitVec 32) : (s.setAccB v).inputs = s.inputs := rfl

@[simp] theorem State.setKey_regs (v : KeyCode) : (s.setKey v).regs = { s.regs with key := v } := rfl
@[simp] theorem State.setKey_wires (v : KeyCode) : (s.setKey v).wires = s.wires := rfl
@[simp] theorem State.setKey_inputs (v : KeyCode) : (s.setKey v).inputs = s.inputs := rfl

@[simp] theorem State.setAct_regs (v : Bool) : (s.setAct v).regs = { s.regs with act := v } := rfl
@[simp] theorem State.setAct_wires (v : Bool) : (s.setAct v).wires = s.wires := rfl
@[simp] theorem State.setAct_inputs (v : Bool) : (s.setAct v).inputs = s.inputs := rfl

@[simp] theorem State.setPhase_a_regs (v : Phase) : (s.setPhase .a v).regs = { s.regs with phaseA := v } := rfl
@[simp] theorem State.setPhase_b_regs (v : Phase) : (s.setPhase .b v).regs = { s.regs with phaseB := v } := rfl
@[simp] theorem State.setPhase_wires (x : Side) (v : Phase) : (s.setPhase x v).wires = s.wires := by cases x <;> rfl
@[simp] theorem State.setPhase_inputs (x : Side) (v : Phase) : (s.setPhase x v).inputs = s.inputs := by cases x <;> rfl

@[simp] theorem State.setCnt_a_regs (v : Count) : (s.setCnt .a v).regs = { s.regs with cntA := v } := rfl
@[simp] theorem State.setCnt_b_regs (v : Count) : (s.setCnt .b v).regs = { s.regs with cntB := v } := rfl
@[simp] theorem State.setCnt_wires (x : Side) (v : Count) : (s.setCnt x v).wires = s.wires := by cases x <;> rfl
@[simp] theorem State.setCnt_inputs (x : Side) (v : Count) : (s.setCnt x v).inputs = s.inputs := by cases x <;> rfl

@[simp] theorem State.setEdge_regs (v : Bool) : (s.setEdge v).regs = s.regs := rfl
@[simp] theorem State.setEdge_wires (v : Bool) : (s.setEdge v).wires = { s.wires with edge := v } := rfl
@[simp] theorem State.setEdge_inputs (v : Bool) : (s.setEdge v).inputs = s.inputs := rfl

@[simp] theorem State.setK_regs (v : KeyCode) : (s.setK v).regs = s.regs := rfl
@[simp] theorem State.setK_wires (v : KeyCode) : (s.setK v).wires = { s.wires with k := v } := rfl
@[simp] theorem State.setK_inputs (v : KeyCode) : (s.setK v).inputs = s.inputs := rfl

@[simp] theorem State.setAWon_regs (v : Bool) : (s.setAWon v).regs = s.regs := rfl
@[simp] theorem State.setAWon_wires (v : Bool) : (s.setAWon v).wires = { s.wires with aWon := v } := rfl
@[simp] theorem State.setAWon_inputs (v : Bool) : (s.setAWon v).inputs = s.inputs := rfl

@[simp] theorem State.setUnkA_regs (v : Bool) : (s.setUnkA v).regs = s.regs := rfl
@[simp] theorem State.setUnkA_wires (v : Bool) : (s.setUnkA v).wires = { s.wires with unkA := v } := rfl
@[simp] theorem State.setUnkA_inputs (v : Bool) : (s.setUnkA v).inputs = s.inputs := rfl

@[simp] theorem State.setUnkB_regs (v : Bool) : (s.setUnkB v).regs = s.regs := rfl
@[simp] theorem State.setUnkB_wires (v : Bool) : (s.setUnkB v).wires = { s.wires with unkB := v } := rfl
@[simp] theorem State.setUnkB_inputs (v : Bool) : (s.setUnkB v).inputs = s.inputs := rfl

@[simp] theorem State.setEvent_regs (e : EdgeEvent) : (s.setEvent e).regs = s.regs := rfl
@[simp] theorem State.setEvent_wires (e : EdgeEvent) : (s.setEvent e).wires = { s.wires with event := some e } := rfl
@[simp] theorem State.setEvent_inputs (e : EdgeEvent) : (s.setEvent e).inputs = s.inputs := rfl

@[simp] theorem State.setDone_regs (x : Side) (v : Bool) : (s.setDone x v).regs = s.regs := by cases x <;> rfl
@[simp] theorem State.setDone_a_wires (v : Bool) : (s.setDone .a v).wires = { s.wires with doneA := v } := rfl
@[simp] theorem State.setDone_b_wires (v : Bool) : (s.setDone .b v).wires = { s.wires with doneB := v } := rfl
@[simp] theorem State.setDone_inputs (x : Side) (v : Bool) : (s.setDone x v).inputs = s.inputs := by cases x <;> rfl

@[simp] theorem State.quiet_regs (c : Params) : (s.quiet c).regs = s.regs := rfl
@[simp] theorem State.quiet_wires (c : Params) : (s.quiet c).wires = Wires.quiet c := rfl
@[simp] theorem State.quiet_inputs (c : Params) : (s.quiet c).inputs = s.inputs := rfl

/-! ### Reads through a decoder's side -/

@[simp] theorem Regs.phase_a (r : Regs) : r.phase .a = r.phaseA := rfl
@[simp] theorem Regs.phase_b (r : Regs) : r.phase .b = r.phaseB := rfl
@[simp] theorem Regs.cnt_a (r : Regs) : r.cnt .a = r.cntA := rfl
@[simp] theorem Regs.cnt_b (r : Regs) : r.cnt .b = r.cntB := rfl
@[simp] theorem Wires.done_a (w : Wires) : w.done .a = w.doneA := rfl
@[simp] theorem Wires.done_b (w : Wires) : w.done .b = w.doneB := rfl
@[simp] theorem lookupCode_a (r : Regs) : lookupCode .a r = r.accALo := rfl
@[simp] theorem lookupCode_b (r : Regs) : lookupCode .b r = r.accB := rfl

end Sys2Proof.Machine
end

