-- ==== Sys2Proof/Laws/Ops.lean ====
section
/-! SUPPORT. One lemma for each shared operation of the machine: all it can do. -/

namespace Sys2Proof.Machine

/-! ### Decoder registers -/

@[simp] theorem State.zeroAcc_a_regs (s : State) : (s.zeroAcc .a).regs = { s.regs with accAHi := 0, accALo := 0 } := rfl
@[simp] theorem State.zeroAcc_b_regs (s : State) : (s.zeroAcc .b).regs = { s.regs with accB := 0 } := rfl
@[simp] theorem State.zeroAcc_wires (s : State) (x : Side) : (s.zeroAcc x).wires = s.wires := by cases x <;> rfl
@[simp] theorem State.zeroAcc_inputs (s : State) (x : Side) : (s.zeroAcc x).inputs = s.inputs := by cases x <;> rfl

@[simp] theorem State.collapse_a_regs (s : State) : (s.collapse .a).regs = { s.regs with phaseA := .idle } := rfl
@[simp] theorem State.collapse_b_regs (s : State) : (s.collapse .b).regs = { s.regs with phaseB := .idle } := rfl
@[simp] theorem State.collapse_wires (s : State) (x : Side) : (s.collapse x).wires = s.wires := by cases x <;> rfl
@[simp] theorem State.collapse_inputs (s : State) (x : Side) : (s.collapse x).inputs = s.inputs := by cases x <;> rfl

/-- Append of decoder A: one of the two accumulators takes the bit, and CNT_A counts (R74). -/
theorem State.append_a_regs (s : State) (c : Params) (b : Bool) :
    (s.append c .a b).regs =
      { s.regs with
        accAHi := if ∃ n, c.descA.split = some n ∧ s.regs.cntA.toNat < n.toNat then shiftIn s.regs.accAHi b
                  else s.regs.accAHi
        accALo := if ∃ n, c.descA.split = some n ∧ s.regs.cntA.toNat < n.toNat then s.regs.accALo
                  else shiftIn s.regs.accALo b
        cntA := s.regs.cntA + 1 } := by
  cases h : c.descA.split with
  | none => simp [State.append, State.shiftBit, h]
  | some n => by_cases hn : s.regs.cntA.toNat < n.toNat <;> simp [State.append, State.shiftBit, h, hn]

/-- Append of decoder B (R74). -/
@[simp] theorem State.append_b_regs (s : State) (c : Params) (b : Bool) :
    (s.append c .b b).regs = { s.regs with accB := shiftIn s.regs.accB b, cntB := s.regs.cntB + 1 } := rfl

@[simp] theorem State.append_wires (s : State) (c : Params) (x : Side) (b : Bool) :
    (s.append c x b).wires = s.wires := by
  cases x
  · simp only [State.append, State.setCnt_wires, State.shiftBit]
    split
    · split <;> rfl
    · rfl
  · rfl

@[simp] theorem State.append_inputs (s : State) (c : Params) (x : Side) (b : Bool) :
    (s.append c x b).inputs = s.inputs := by
  cases x
  · simp only [State.append, State.setCnt_inputs, State.shiftBit]
    split
    · split <;> rfl
    · rfl
  · rfl

/-! ### The sampler -/

@[simp] theorem tickRegs_regs (s : State) :
    (tickRegs s).regs = { s.regs with tcnt := tcntNext s.regs, tov := tovNext s.regs } := rfl
@[simp] theorem tickRegs_wires (s : State) : (tickRegs s).wires = s.wires := rfl
@[simp] theorem tickRegs_inputs (s : State) : (tickRegs s).inputs = s.inputs := rfl

/-- The sampler on an edge: the event, TCNT and TOV at 0 (R63, R64). -/
theorem sampleOnEdge_eq (c : Params) (ir : Bool) (s : State) :
    sampleOnEdge c ir s =
      { s with
        regs := { s.regs with tcnt := 0, tov := false }
        wires := { s.wires with event := some ⟨ir, if s.regs.tov then c.durSat else s.regs.tcnt⟩ } } := by
  unfold sampleOnEdge
  cases h : s.regs.tov
  · have : s.regs = { s.regs with tov := false } := by rw [← h]
    simp only [Bool.false_eq_true, if_false, sampleEdge, State.setEvent, State.setTcnt]
    rw [← h]
  · rfl

/-! ### The transition function -/

/-- Which of the eleven transitions an edge event takes, and when (R76). -/
theorem decEdge_cases (c : Params) (x : Side) (e : EdgeEvent) (s : State) :
    (s.regs.phase x = .idle ∧ e.level = false ∧ decEdge c x e s = idleFall x s) ∨
    (s.regs.phase x = .idle ∧ e.level = true ∧ decEdge c x e s = idleRise x s) ∨
    (s.regs.phase x = .header ∧ e.level = true ∧ inWin (c.desc x).hl e.dur = true ∧
      decEdge c x e s = hdrRiseOk x s) ∨
    (s.regs.phase x = .header ∧ e.level = true ∧ inWin (c.desc x).hl e.dur = false ∧
      decEdge c x e s = hdrRiseBad x s) ∨
    (s.regs.phase x = .header ∧ e.level = false ∧ inWin (c.desc x).hh e.dur = true ∧
      decEdge c x e s = hdrFallOk x s) ∨
    (s.regs.phase x = .header ∧ e.level = false ∧ inWin (c.desc x).hh e.dur = false ∧
      decEdge c x e s = hdrFallBad x s) ∨
    (s.regs.phase x = .data ∧ e.level = false ∧ inWin (c.desc x).dl e.dur = true ∧
      decEdge c x e s = dataFallOne c x s) ∨
    (s.regs.phase x = .data ∧ e.level = false ∧ inWin (c.desc x).dl e.dur = false ∧
      inWin (c.desc x).ds e.dur = true ∧ decEdge c x e s = dataFallZero c x s) ∨
    (s.regs.phase x = .data ∧ e.level = false ∧ inWin (c.desc x).dl e.dur = false ∧
      inWin (c.desc x).ds e.dur = false ∧ decEdge c x e s = dataFallBad c x s) ∨
    (s.regs.phase x = .data ∧ e.level = true ∧ s.regs.cnt x ≠ (c.desc x).width ∧
      decEdge c x e s = dataRiseMore x s) ∨
    (s.regs.phase x = .data ∧ e.level = true ∧ s.regs.cnt x = (c.desc x).width ∧
      decEdge c x e s = dataRiseDone x s) := by
  unfold decEdge
  cases s.regs.phase x <;> cases e.level
  case idle.false => simp
  case idle.true => simp
  case header.true => cases inWin (c.desc x).hl e.dur <;> simp
  case header.false => cases inWin (c.desc x).hh e.dur <;> simp
  case data.true =>
    by_cases h : s.regs.cnt x = (c.desc x).width
    · simp [full, h]
    · simp [full, h]
  case data.false =>
    rw [classify_bad, classify_bit]
    cases inWin (c.desc x).dl e.dur <;> cases inWin (c.desc x).ds e.dur <;> simp

/-! ### RESOLVE -/

@[simp] theorem resolveBegin_regs (c : Params) (s : State) : (resolveBegin c s).regs = s.regs := rfl
@[simp] theorem resolveBegin_inputs (c : Params) (s : State) : (resolveBegin c s).inputs = s.inputs := rfl
@[simp] theorem resolveBegin_wires (c : Params) (s : State) :
    (resolveBegin c s).wires = { s.wires with k := c.nokey, unkA := false, unkB := false, aWon := false } := rfl

/-- What stage A can do (R115 to R118). -/
theorem resolveA_cases (c : Params) (s : State) :
    (s.wires.doneA = false ∧ resolveA c s = s) ∨
    (∃ k, s.wires.doneA = true ∧ c.romA s.regs.accALo = .hit k ∧
      resolveA c s = { s with wires := { s.wires with k := k, aWon := true } }) ∨
    (s.wires.doneA = true ∧ c.romA s.regs.accALo = .ignored ∧ resolveA c s = s) ∨
    (s.wires.doneA = true ∧ c.romA s.regs.accALo = .miss ∧
      resolveA c s = { s with wires := { s.wires with unkA := true } }) := by
  unfold resolveA
  cases hd : s.wires.doneA
  · simp [resASkip]
  · cases hr : c.romA s.regs.accALo <;>
      simp [romRead, hr, resAHit, resAIgn, resAMiss, romKey, State.setK, State.setAWon, State.setUnkA]

/-- What stage B can do (R115, R116, R119 to R121). -/
theorem resolveB_cases (c : Params) (s : State) :
    (s.wires.aWon = true ∧ resolveB c s = s) ∨
    (s.wires.aWon = false ∧ s.wires.doneB = false ∧ resolveB c s = s) ∨
    (∃ k, s.wires.aWon = false ∧ s.wires.doneB = true ∧ c.romB s.regs.accB = .hit k ∧
      resolveB c s = { s with wires := { s.wires with k := k } }) ∨
    (s.wires.aWon = false ∧ s.wires.doneB = true ∧ c.romB s.regs.accB = .ignored ∧ resolveB c s = s) ∨
    (s.wires.aWon = false ∧ s.wires.doneB = true ∧ c.romB s.regs.accB = .miss ∧
      resolveB c s = { s with wires := { s.wires with unkB := true } }) := by
  unfold resolveB
  cases ha : s.wires.aWon
  · cases hd : s.wires.doneB
    · simp [resBSkipNone]
    · cases hr : c.romB s.regs.accB <;>
        simp [romRead, hr, resBHit, resBIgn, resBMiss, romKey, State.setK, State.setUnkB]
  · simp [resBSkipAwon]

/-! ### LATCH and the idle check -/

/-- What LATCH can do (R123). -/
theorem latch_cases (c : Params) (s : State) :
    (s.wires.k = c.nokey ∧ latch c s = s) ∨
    (s.wires.k ≠ c.nokey ∧ latch c s = { s with regs := { s.regs with key := s.wires.k, act := true } }) := by
  unfold latch kvalid
  by_cases h : s.wires.k = c.nokey <;> simp [h, latchHold, latchSet, State.setKey, State.setAct]

/-- What the idle check does (R126): KEY released when either test holds, ACT cleared when TOV is set. -/
theorem idlechk_eq (c : Params) (s : State) :
    idlechk c s =
      { s with regs := { s.regs with
          key := if s.regs.tov = true ∨ c.idleThresh.toNat < s.regs.tcnt.toNat then c.nokey else s.regs.key
          act := if s.regs.tov = true then false else s.regs.act } } := by
  obtain ⟨⟨_, tcnt, tov, _, _, _, _, _, _, _, _, _⟩, _, _⟩ := s
  by_cases hc : c.idleThresh.toNat < tcnt.toNat <;> cases tov <;>
    simp [idlechk, overThresh, hc, idleThresh, idleOvf, idleNone, State.setKey, State.setAct]

/-! ### The block level -/

@[simp] theorem reset_regs (c : Params) (s : State) : (reset c s).regs = Regs.reset c := rfl
@[simp] theorem reset_wires (c : Params) (s : State) : (reset c s).wires = Wires.quiet c := rfl
@[simp] theorem reset_inputs (c : Params) (s : State) : (reset c s).inputs = s.inputs := rfl

@[simp] theorem nop_regs (c : Params) (s : State) : (nop c s).regs = s.regs := rfl
@[simp] theorem nop_wires (c : Params) (s : State) : (nop c s).wires = Wires.quiet c := rfl
@[simp] theorem nop_inputs (c : Params) (s : State) : (nop c s).inputs = s.inputs := rfl

@[simp] theorem tick_regs (c : Params) (s : State) :
    (tick c s).regs = { s.regs with tcnt := tcntNext s.regs, tov := tovNext s.regs } := rfl
@[simp] theorem tick_wires (c : Params) (s : State) : (tick c s).wires = Wires.quiet c := rfl
@[simp] theorem tick_inputs (c : Params) (s : State) : (tick c s).inputs = s.inputs := rfl

/-- A POLL that sees no edge is the idle check on quiet wires (R61, R62). -/
theorem poll_noEdge (c : Params) (ir : Bool) (s : State) (h : ir = s.regs.prev) :
    poll c ir s = idlechk c (s.quiet c) := by
  have he : ∀ t : State, (State.setPrev (sampleNoedge t) t.regs.prev) = t := fun _ => rfl
  subst h
  simp only [poll, pollBegin, edgeSeen, bne_self_eq_false, State.setEdge_wires, Bool.false_eq_true, if_false]
  exact congrArg (idlechk c) (he (s.quiet c))

/-- The state in which the decoders of a POLL on an edge start (R61). -/
def sampled (c : Params) (ir : Bool) (s : State) : State :=
  { s with
    regs := { s.regs with tcnt := 0, tov := false, prev := ir }
    wires := { Wires.quiet c with
      edge := true, event := some ⟨ir, if s.regs.tov then c.durSat else s.regs.tcnt⟩ } }

/-- A POLL that sees an edge: the sampler's event through the decoders, RESOLVE and LATCH, then the idle check
(R61). -/
theorem poll_edge (c : Params) (ir : Bool) (s : State) (h : ir ≠ s.regs.prev) :
    poll c ir s =
      idlechk c (onEvent c ⟨ir, if s.regs.tov then c.durSat else s.regs.tcnt⟩ (sampled c ir s)) := by
  have hb : (ir != s.regs.prev) = true := by simpa using h
  simp only [poll, pollBegin, edgeSeen, hb, State.setEdge_wires, if_true, pollEdge, sampleOnEdge_eq,
    State.setPrev, State.setEdge_regs, State.quiet_regs]
  rfl

end Sys2Proof.Machine
end

