-- ==== Sys2Proof/Laws/PerInstr.lean ====
section
/-! SUPPORT. Facts about every constructor of `Instr` as syntax, one lemma each. -/

namespace Sys2Proof.Laws.EncodedSelector

/-- The encoded selector of an operation can occur (R57), and the operation is among those it picks. -/
def Statement (i : Instr) : Prop :=
  (encode i).wf = true ∧ i ∈ picks (encode i)

theorem reset : Statement .reset := ⟨rfl, by decide⟩
theorem nop : Statement .nop := ⟨rfl, by decide⟩
theorem tick : Statement .tick := ⟨rfl, by decide⟩
theorem poll (ir : Bool) : Statement (.poll ir) := by cases ir <;> exact ⟨rfl, by decide⟩
theorem tickpoll (ir : Bool) : Statement (.tickpoll ir) := by cases ir <;> exact ⟨rfl, by decide⟩
theorem sampleNoedge : Statement .sampleNoedge := ⟨rfl, by decide⟩
theorem sampleEdge (ir : Bool) : Statement (.sampleEdge ir) := by cases ir <;> exact ⟨rfl, by decide⟩
theorem sampleEdgeOvf (ir : Bool) : Statement (.sampleEdgeOvf ir) := by cases ir <;> exact ⟨rfl, by decide⟩
theorem aIdleFall : Statement .aIdleFall := ⟨rfl, by decide⟩
theorem aIdleRise : Statement .aIdleRise := ⟨rfl, by decide⟩
theorem aHdrRiseOk : Statement .aHdrRiseOk := ⟨rfl, by decide⟩
theorem aHdrRiseBad : Statement .aHdrRiseBad := ⟨rfl, by decide⟩
theorem aHdrFallOk : Statement .aHdrFallOk := ⟨rfl, by decide⟩
theorem aHdrFallBad : Statement .aHdrFallBad := ⟨rfl, by decide⟩
theorem aDataFallOne : Statement .aDataFallOne := ⟨rfl, by decide⟩
theorem aDataFallZero : Statement .aDataFallZero := ⟨rfl, by decide⟩
theorem aDataFallBad : Statement .aDataFallBad := ⟨rfl, by decide⟩
theorem aDataRiseMore : Statement .aDataRiseMore := ⟨rfl, by decide⟩
theorem aDataRiseDone : Statement .aDataRiseDone := ⟨rfl, by decide⟩
theorem bIdleFall : Statement .bIdleFall := ⟨rfl, by decide⟩
theorem bIdleRise : Statement .bIdleRise := ⟨rfl, by decide⟩
theorem bHdrRiseOk : Statement .bHdrRiseOk := ⟨rfl, by decide⟩
theorem bHdrRiseBad : Statement .bHdrRiseBad := ⟨rfl, by decide⟩
theorem bHdrFallOk : Statement .bHdrFallOk := ⟨rfl, by decide⟩
theorem bHdrFallBad : Statement .bHdrFallBad := ⟨rfl, by decide⟩
theorem bDataFallOne : Statement .bDataFallOne := ⟨rfl, by decide⟩
theorem bDataFallZero : Statement .bDataFallZero := ⟨rfl, by decide⟩
theorem bDataFallBad : Statement .bDataFallBad := ⟨rfl, by decide⟩
theorem bDataRiseMore : Statement .bDataRiseMore := ⟨rfl, by decide⟩
theorem bDataRiseDone : Statement .bDataRiseDone := ⟨rfl, by decide⟩
theorem resASkip : Statement .resASkip := ⟨rfl, by decide⟩
theorem resAHit : Statement .resAHit := ⟨rfl, by decide⟩
theorem resAIgn : Statement .resAIgn := ⟨rfl, by decide⟩
theorem resAMiss : Statement .resAMiss := ⟨rfl, by decide⟩
theorem resBSkipAwon : Statement .resBSkipAwon := ⟨rfl, by decide⟩
theorem resBSkipNone : Statement .resBSkipNone := ⟨rfl, by decide⟩
theorem resBHit : Statement .resBHit := ⟨rfl, by decide⟩
theorem resBIgn : Statement .resBIgn := ⟨rfl, by decide⟩
theorem resBMiss : Statement .resBMiss := ⟨rfl, by decide⟩
theorem latchSet : Statement .latchSet := ⟨rfl, by decide⟩
theorem latchHold : Statement .latchHold := ⟨rfl, by decide⟩
theorem idleOvf : Statement .idleOvf := ⟨rfl, by decide⟩
theorem idleThresh : Statement .idleThresh := ⟨rfl, by decide⟩
theorem idleNone : Statement .idleNone := ⟨rfl, by decide⟩

end Sys2Proof.Laws.EncodedSelector
end

