-- ==== Sys2Proof/Laws/Step.lean ====
section
/-! SUPPORT. What a step that answers a next state has done, said once. -/

namespace Sys2Proof.Machine

/-- A step to a next state ran NOP with nothing pending, or the operation the oldest pending choice decodes to
(R48, R53). -/
theorem step_cases {s t : State} (h : step s = .next t) :
    (s.inputs = [] ∧ exec .nop s = .next t) ∨
    ∃ w rest i, s.inputs = w :: rest ∧ decode w = .ok i ∧ exec i { s with inputs := rest } = .next t := by
  unfold step at h
  cases hi : s.inputs with
  | nil =>
    rw [hi] at h
    exact .inl ⟨rfl, h⟩
  | cons w rest =>
    rw [hi] at h
    cases hd : decode w with
    | ok i => exact .inr ⟨w, rest, i, rfl, hd, by simpa only [hd] using h⟩
    | error why => simp only [hd, reduceCtorEq] at h

/-- A run goes on from the state its first step answers. -/
theorem run_succ_of_step {s t : State} (h : step s = .next t) (k : Nat) : core.run (k + 1) s = core.run k t := by
  have hs : core.step s = .next t := h
  refine (Host.Core.run.eq_2 core s k).trans ?_
  rw [hs]

/-- A run of one step. -/
theorem run_one_of_step {s t : State} (h : step s = .next t) : core.run 1 s = .next t :=
  run_succ_of_step h 0

end Sys2Proof.Machine
end

