-- ==== Sys2Proof/Tests/Slice0.lean ====
section
/-! SUPPORT. Tests on fixed values, their expected results from spec/95_test_vectors.md (vector names VX, VT, VS, VA, VB,
VR, VL, VI, VQ) and from the rows of spec/30_encoding.md; the smoke test of WellFormed; and for each statement with
hypotheses a theorem `witness_<its name>` that they can be met, at the edges of their ranges. -/

namespace Sys2Proof.Tests

open Sys2Proof.Machine Sys2Proof.Safety

/-! ## Helpers -/

/-- The registers of the reset state, written out (R13). -/
def r0 : Regs :=
  { prev := true, tcnt := 0, tov := false, phaseA := .idle, cntA := 0, accAHi := 0, accALo := 0, phaseB := .idle,
    cntB := 0, accB := 0, key := 0, act := false }

/-- No wire raised. -/
def w0 : Wires :=
  { edge := false, event := none, doneA := false, doneB := false, k := 0, aWon := false, unkA := false, unkB := false }

/-- A state with these registers, quiet wires and nothing pending. -/
def st (r : Regs) : State := { regs := r, wires := w0, inputs := [] }

/-- A state with decoder A as given, everything else as after reset. -/
def stA (p : Phase) (n : Count) (hi : BitVec 16) (lo : BitVec 32) : State :=
  st { r0 with phaseA := p, cntA := n, accAHi := hi, accALo := lo }

/-- A state with decoder B as given, everything else as after reset. -/
def stB (p : Phase) (n : Count) (acc : BitVec 32) : State :=
  st { r0 with phaseB := p, cntB := n, accB := acc }

/-- A state with these wires, everything else as after reset. -/
def stW (w : Wires) : State := { regs := r0, wires := w, inputs := [] }

/-- The next state, if there is one. -/
def next : Host.Outcome State Fault Refusal → Option State
  | .next t => some t
  | .fault _ => none
  | .refused _ => none

/-- Decoder A and its wire after an operation. -/
def afterA (i : Instr) (s : State) : Option (Phase × Count × BitVec 16 × BitVec 32 × Bool) :=
  (next (exec i s)).map (fun t => (t.regs.phaseA, t.regs.cntA, t.regs.accAHi, t.regs.accALo, t.wires.doneA))

/-- Decoder B and its wire after an operation. -/
def afterB (i : Instr) (s : State) : Option (Phase × Count × BitVec 32 × Bool) :=
  (next (exec i s)).map (fun t => (t.regs.phaseB, t.regs.cntB, t.regs.accB, t.wires.doneB))

/-- The fixture ROMs and keys of spec/95_test_vectors.md, invented there. -/
def fixture : Params :=
  { Config.hw with
    keys := [1, 2]
    romA := fun c => if c = 0x0100BCBD then .hit 1 else if c = 0x01004C4D then .hit 2 else .miss
    romB := fun c =>
      if c = 0xE0E0E01F then .hit 1 else if c = 0xE0E0D02F then .hit 2
      else if c = 0xE0E040BF then .ignored else if c = 0xE0E0C03F then .ignored else .miss }

/-- RESOLVE on the fixture: `k`, `unk_a`, `unk_b` for these completions and codes. -/
def resolved (doneA : Bool) (lo : BitVec 32) (doneB : Bool) (acc : BitVec 32) : KeyCode × Bool × Bool :=
  let t := resolve fixture
    { regs := { r0 with accALo := lo, accB := acc }, wires := { w0 with doneA := doneA, doneB := doneB }, inputs := [] }
  (t.wires.k, t.wires.unkA, t.wires.unkB)

/-! ## WellFormed: each check refuses an ill-formed term -/

theorem test_fits_refuses_a_wide_selector : Selector.fits ⟨.bcmd, 0b1000, false⟩ = false := by decide
theorem test_fits_refuses_a_wide_lsel : Selector.fits ⟨.lsel, 0b10, false⟩ = false := by decide
theorem test_unreserved_refuses_phase_error : Selector.unreserved ⟨.dsel .b, 0xC0, true⟩ = false := by decide
theorem test_unreserved_refuses_asel_class_01 : Selector.unreserved ⟨.asel, 0b101, false⟩ = false := by decide
theorem test_unreserved_refuses_bsel_class_01 : Selector.unreserved ⟨.bsel, 0b0101, false⟩ = false := by decide
theorem test_blockLevel_refuses_other_points : Selector.blockLevel ⟨.isel, 0b01, false⟩ = false := by decide
theorem test_blockLevel_refuses_a_wide_bcmd : Selector.blockLevel ⟨.bcmd, 0x10, false⟩ = false := by decide
theorem test_window_wf_refuses_empty : Window.wf ⟨690, 690⟩ = false := by decide
theorem test_disjoint_refuses_overlap : Window.disjoint ⟨35, 130⟩ ⟨128, 300⟩ = false := by decide
theorem test_disjoint_accepts_touching : Window.disjoint ⟨35, 130⟩ ⟨129, 300⟩ = true := by decide
theorem test_descriptor_wf_refuses_no_bits : Descriptor.wf { Config.descA with width := 0 } = false := by decide
theorem test_descriptor_wf_refuses_overlap : Descriptor.wf { Config.descB with ds := ⟨35, 260⟩ } = false := by decide
theorem test_legal_refuses_a_foreign_key : RomResult.legal [1, 2] (.hit 3) = false := by decide
theorem test_params_wf_refuses_another_width : ¬ ({ fixture with tickW := 17 } : Params).WF :=
  fun h => absurd h.tickW (by decide)
theorem test_params_wf_refuses_no_period : ¬ ({ fixture with tickPeriod := 0 } : Params).WF :=
  fun h => absurd h.tickPeriod (by decide)
theorem test_params_wf_refuses_nokey_as_key : ¬ ({ fixture with keys := [0] } : Params).WF :=
  fun h => absurd h.keys (by decide)

/-! ## Decoding: every row of R48, R54 and R55, the selector written out bit by bit -/

theorem test_decode_bcmd :
    decode ⟨.bcmd, 0b100, false⟩ = .ok .reset ∧ decode ⟨.bcmd, 0b111, true⟩ = .ok .reset ∧
    decode ⟨.bcmd, 0b000, false⟩ = .ok .nop ∧ decode ⟨.bcmd, 0b010, true⟩ = .ok .tick ∧
    decode ⟨.bcmd, 0b001, true⟩ = .ok (.poll true) ∧ decode ⟨.bcmd, 0b011, false⟩ = .ok (.tickpoll false) := by
  decide

theorem test_decode_ssel :
    decode ⟨.ssel, 0b00, true⟩ = .ok .sampleNoedge ∧ decode ⟨.ssel, 0b01, true⟩ = .ok .sampleNoedge ∧
    decode ⟨.ssel, 0b10, false⟩ = .ok (.sampleEdge false) ∧
    decode ⟨.ssel, 0b11, true⟩ = .ok (.sampleEdgeOvf true) := by
  decide

/-- The DSEL column of VA1, VA2, VA3, VA7, VA9, VA11, VA15, VA19, VA28, VA32, VA34. -/
theorem test_decode_dsel_a :
    decode ⟨.dsel .a, 0x00, false⟩ = .ok .aIdleFall ∧ decode ⟨.dsel .a, 0x24, true⟩ = .ok .aIdleRise ∧
    decode ⟨.dsel .a, 0x70, true⟩ = .ok .aHdrRiseOk ∧ decode ⟨.dsel .a, 0x60, true⟩ = .ok .aHdrRiseBad ∧
    decode ⟨.dsel .a, 0x4A, false⟩ = .ok .aHdrFallOk ∧ decode ⟨.dsel .a, 0x42, false⟩ = .ok .aHdrFallBad ∧
    decode ⟨.dsel .a, 0x8A, false⟩ = .ok .aDataFallOne ∧ decode ⟨.dsel .a, 0x84, false⟩ = .ok .aDataFallZero ∧
    decode ⟨.dsel .a, 0x88, false⟩ = .ok .aDataFallBad ∧ decode ⟨.dsel .a, 0xA4, true⟩ = .ok .aDataRiseMore ∧
    decode ⟨.dsel .a, 0xA5, true⟩ = .ok .aDataRiseDone := by
  decide

/-- The DSEL column of VB1, VB2, VB3, VB5, VB9, VB13, VB14, VB17, VB20, VB27, VB28. -/
theorem test_decode_dsel_b :
    decode ⟨.dsel .b, 0x00, false⟩ = .ok .bIdleFall ∧ decode ⟨.dsel .b, 0x24, true⟩ = .ok .bIdleRise ∧
    decode ⟨.dsel .b, 0x78, true⟩ = .ok .bHdrRiseOk ∧ decode ⟨.dsel .b, 0x60, true⟩ = .ok .bHdrRiseBad ∧
    decode ⟨.dsel .b, 0x58, false⟩ = .ok .bHdrFallOk ∧ decode ⟨.dsel .b, 0x42, false⟩ = .ok .bHdrFallBad ∧
    decode ⟨.dsel .b, 0x82, false⟩ = .ok .bDataFallOne ∧ decode ⟨.dsel .b, 0x84, false⟩ = .ok .bDataFallZero ∧
    decode ⟨.dsel .b, 0x80, false⟩ = .ok .bDataFallBad ∧ decode ⟨.dsel .b, 0xA4, true⟩ = .ok .bDataRiseMore ∧
    decode ⟨.dsel .b, 0xA5, true⟩ = .ok .bDataRiseDone := by
  decide

/-- D20: with both data comparators set, long is tested first. -/
theorem test_decode_dsel_long_first : decode ⟨.dsel .a, 0x86, false⟩ = .ok .aDataFallOne := by decide

theorem test_decode_asel :
    decode ⟨.asel, 0b000, false⟩ = .ok .resASkip ∧ decode ⟨.asel, 0b011, false⟩ = .ok .resASkip ∧
    decode ⟨.asel, 0b111, false⟩ = .ok .resAHit ∧ decode ⟨.asel, 0b110, false⟩ = .ok .resAIgn ∧
    decode ⟨.asel, 0b100, false⟩ = .ok .resAMiss ∧ decode ⟨.asel, 0b101, false⟩ = .error .romClass := by
  decide

theorem test_decode_bsel :
    decode ⟨.bsel, 0b1111, false⟩ = .ok .resBSkipAwon ∧ decode ⟨.bsel, 0b0011, false⟩ = .ok .resBSkipNone ∧
    decode ⟨.bsel, 0b0111, false⟩ = .ok .resBHit ∧ decode ⟨.bsel, 0b0110, false⟩ = .ok .resBIgn ∧
    decode ⟨.bsel, 0b0100, false⟩ = .ok .resBMiss ∧ decode ⟨.bsel, 0b0101, false⟩ = .error .romClass := by
  decide

theorem test_decode_lsel :
    decode ⟨.lsel, 0b1, false⟩ = .ok .latchSet ∧ decode ⟨.lsel, 0b0, false⟩ = .ok .latchHold := by
  decide

theorem test_decode_isel :
    decode ⟨.isel, 0b10, false⟩ = .ok .idleOvf ∧ decode ⟨.isel, 0b01, false⟩ = .ok .idleThresh ∧
    decode ⟨.isel, 0b00, false⟩ = .ok .idleNone ∧ picks ⟨.isel, 0b11, false⟩ = [.idleOvf, .idleThresh] := by
  decide

theorem test_decode_rejects_by_name :
    decode ⟨.dsel .a, 0xC0, false⟩ = .error .errorPhase ∧ decode ⟨.ssel, 0b100, false⟩ = .error .tooWide := by
  decide

/-- Table words: a BCMD word, a DSEL word, and a step that runs what `withFetchWord` stored. -/
theorem test_table_words :
    decodeTableWord 8 0x04 = some .reset ∧ decodeTableWord 8 0x48 = some .aHdrFallOk ∧
    next (step (State.reset.withFetchWord 8 0x48)) = next (exec .aHdrFallOk State.reset) := by
  decide

/-- The worked examples of R49. -/
theorem test_edge_event_words :
    EdgeEvent.word ⟨false, 320⟩ = 0x00140 ∧ EdgeEvent.word ⟨true, 650⟩ = 0x1028A ∧
    EdgeEvent.word ⟨true, 0xFFFF⟩ = 0x1FFFF := by
  decide

/-- The fixture's 9-bit words (R37). -/
theorem test_rom_words :
    romWord (.hit 1) = 0x101 ∧ romWord .ignored = 0x100 ∧ romWord .miss = 0x000 ∧ romOfWord 0x001 = none := by
  decide

/-- The worked example of R72. -/
theorem test_window_bounds_are_excluded :
    inWin ⟨630, 690⟩ 630 = false ∧ inWin ⟨630, 690⟩ 631 = true ∧ inWin ⟨630, 690⟩ 689 = true ∧
    inWin ⟨630, 690⟩ 690 = false := by
  decide

/-! ## The block level and the sampler -/

/-- VX2. -/
theorem test_reset :
    (next (exec .reset (st { r0 with tcnt := 777, key := 2, act := true, phaseA := .data, cntA := 9,
                                     accAHi := 0x01FF }))).map (fun t => t.regs) = some r0 := by
  decide

/-- VX3. -/
theorem test_nop : next (exec .nop (st r0)) = some (st r0) := by decide

/-- VT2. -/
theorem test_tick_counts :
    (next (exec .tick (st { r0 with tcnt := 0xFFFE }))).map (fun t => (t.regs.tcnt, t.regs.tov)) =
      some (0xFFFF, false) := by
  decide

/-- VT3, VT4. -/
theorem test_tick_wraps :
    (next (exec .tick (st { r0 with tcnt := 0xFFFF }))).map (fun t => (t.regs.tcnt, t.regs.tov)) = some (0, true) ∧
    (next (exec .tick (st { r0 with tcnt := 0xFFFF, tov := true }))).map (fun t => (t.regs.tcnt, t.regs.tov)) =
      some (0, true) := by
  decide

/-- VS2: after 100 ticks, the first falling edge. -/
theorem test_poll_edge :
    (next (exec (.poll false) (st { r0 with tcnt := 100 }))).map
        (fun t => (t.wires.event, t.regs.prev, t.regs.tcnt, t.regs.phaseA, t.regs.phaseB)) =
      some (some ⟨false, 100⟩, false, 0, .header, .header) := by
  decide

/-- VS6: the sentinel, and an edge keeps the held key. -/
theorem test_poll_overflow :
    (next (exec (.poll false) (st { r0 with tcnt := 37, tov := true, key := 5, act := true }))).map
        (fun t => (t.wires.event, t.regs.tov, t.regs.key, t.regs.act)) =
      some (some ⟨false, 0xFFFF⟩, false, 5, true) := by
  decide

/-- VS4. -/
theorem test_tickpoll :
    (next (exec (.tickpoll false) (st { r0 with tcnt := 99 }))).map (fun t => (t.wires.event, t.regs.tcnt)) =
      some (some ⟨false, 100⟩, 0) := by
  decide

/-- The example of R62. -/
theorem test_sample_noedge :
    next (exec .sampleNoedge (st { r0 with tcnt := 12345 })) = some (st { r0 with tcnt := 12345 }) := by
  decide

/-- The example of R63. -/
theorem test_sample_edge :
    (next (exec (.sampleEdge false) (st { r0 with tcnt := 650 }))).map (fun t => (t.wires.event, t.regs.tcnt)) =
      some (some ⟨false, 650⟩, 0) := by
  decide

/-- The example of R64. -/
theorem test_sample_edge_ovf :
    (next (exec (.sampleEdgeOvf false) (st { r0 with tcnt := 37, tov := true }))).map
        (fun t => (t.wires.event, t.regs.tcnt, t.regs.tov)) =
      some (some ⟨false, 0xFFFF⟩, 0, false) := by
  decide

/-! ## Decoder A -/

/-- VA1. -/
theorem test_a_idle_fall : afterA .aIdleFall (stA .idle 7 0x1234 0x55) = some (.header, 0, 0, 0, false) := by decide
/-- VA2. -/
theorem test_a_idle_rise : afterA .aIdleRise (stA .idle 3 4 0) = some (.idle, 3, 4, 0, false) := by decide
/-- VA3. -/
theorem test_a_hdr_rise_ok : afterA .aHdrRiseOk (stA .header 0 0 0) = some (.header, 0, 0, 0, false) := by decide
/-- VA5. -/
theorem test_a_hdr_rise_bad : afterA .aHdrRiseBad (stA .header 0 0 0) = some (.idle, 0, 0, 0, false) := by decide
/-- VA9. -/
theorem test_a_hdr_fall_ok : afterA .aHdrFallOk (stA .header 0 0 0) = some (.data, 0, 0, 0, false) := by decide
/-- VA11. -/
theorem test_a_hdr_fall_bad : afterA .aHdrFallBad (stA .header 0 0 0) = some (.idle, 0, 0, 0, false) := by decide
/-- VA16: the 16th bit is the last into the high field. -/
theorem test_a_data_fall_one_high :
    afterA .aDataFallOne (stA .data 15 0x2002 0) = some (.data, 16, 0x4005, 0, false) := by decide
/-- VA17: the 17th bit is the first into the low field. -/
theorem test_a_data_fall_one_low :
    afterA .aDataFallOne (stA .data 16 0x4005 0) = some (.data, 17, 0x4005, 1, false) := by decide
/-- VA21. -/
theorem test_a_data_fall_zero_high :
    afterA .aDataFallZero (stA .data 15 0xFFFF 0) = some (.data, 16, 0xFFFE, 0, false) := by decide
/-- VA22. -/
theorem test_a_data_fall_zero_low :
    afterA .aDataFallZero (stA .data 16 0xFFFF 0xFFFFFFFF) = some (.data, 17, 0xFFFF, 0xFFFFFFFE, false) := by decide
/-- VA31. -/
theorem test_a_data_fall_bad :
    afterA .aDataFallBad (stA .data 47 0x4004 0x00805E5E) = some (.idle, 48, 0x4004, 0x0100BCBC, false) := by decide
/-- VA32. -/
theorem test_a_data_rise_more :
    afterA .aDataRiseMore (stA .data 47 0x4004 0x00805E5E) = some (.data, 47, 0x4004, 0x00805E5E, false) := by decide
/-- VA34. -/
theorem test_a_data_rise_done :
    afterA .aDataRiseDone (stA .data 48 0x4004 0x0100BCBD) = some (.idle, 48, 0x4004, 0x0100BCBD, true) := by decide

/-! ## Decoder B -/

/-- VB1. -/
theorem test_b_idle_fall : afterB .bIdleFall (stB .idle 7 0x55) = some (.header, 0, 0, false) := by decide
/-- VB2. -/
theorem test_b_idle_rise : afterB .bIdleRise (stB .idle 6 0x2C) = some (.idle, 6, 0x2C, false) := by decide
/-- VB3. -/
theorem test_b_hdr_rise_ok : afterB .bHdrRiseOk (stB .header 0 0) = some (.header, 0, 0, false) := by decide
/-- VB5. -/
theorem test_b_hdr_rise_bad : afterB .bHdrRiseBad (stB .header 0 0) = some (.idle, 0, 0, false) := by decide
/-- VB9. -/
theorem test_b_hdr_fall_ok : afterB .bHdrFallOk (stB .header 0 0) = some (.data, 0, 0, false) := by decide
/-- VB11. -/
theorem test_b_hdr_fall_bad : afterB .bHdrFallBad (stB .header 0 0) = some (.idle, 0, 0, false) := by decide
/-- VB16. -/
theorem test_b_data_fall_one :
    afterB .bDataFallOne (stB .data 31 0x7070700F) = some (.data, 32, 0xE0E0E01F, false) := by decide
/-- VB19. -/
theorem test_b_data_fall_zero :
    afterB .bDataFallZero (stB .data 31 0xFFFFFFFF) = some (.data, 32, 0xFFFFFFFE, false) := by decide
/-- VB26. -/
theorem test_b_data_fall_bad :
    afterB .bDataFallBad (stB .data 31 0x7070700F) = some (.idle, 32, 0xE0E0E01E, false) := by decide
/-- VB27. -/
theorem test_b_data_rise_more :
    afterB .bDataRiseMore (stB .data 31 0x7070700F) = some (.data, 31, 0x7070700F, false) := by decide
/-- VB28. -/
theorem test_b_data_rise_done :
    afterB .bDataRiseDone (stB .data 32 0xE0E0E01F) = some (.idle, 32, 0xE0E0E01F, true) := by decide

/-! ## The selectors the machine forms -/

/-- The DSEL column of VA9 (271 is inside DL_A too), VA28 and VA34. -/
theorem test_dsel_of_a :
    (dselOf Config.hw .a ⟨false, 271⟩ (stA .header 0 0 0).regs).sel = 0x4A ∧
    (dselOf Config.hw .a ⟨false, 300⟩ (stA .data 2 2 0).regs).sel = 0x88 ∧
    (dselOf Config.hw .a ⟨true, 80⟩ (stA .data 48 0 0).regs).sel = 0xA5 := by
  decide

/-- The DSEL column of VB9, VB25 and VB28. -/
theorem test_dsel_of_b :
    (dselOf Config.hw .b ⟨false, 701⟩ (stB .header 0 0).regs).sel = 0x58 ∧
    (dselOf Config.hw .b ⟨false, 0xFFFF⟩ (stB .data 5 0x16).regs).sel = 0x80 ∧
    (dselOf Config.hw .b ⟨true, 100⟩ (stB .data 32 0).regs).sel = 0xA5 := by
  decide

/-! ## RESOLVE, LATCH, the idle check -/

/-- VR1 to VR7 (but VR3), on the fixture ROMs. -/
theorem test_resolve_one_completion :
    resolved false 0x0100BCBD false 0xE0E0D02F = (0, false, false) ∧
    resolved true 0x0100BCBD false 0 = (1, false, false) ∧ resolved true 0xDEADBEEF false 0 = (0, true, false) ∧
    resolved false 0 true 0xE0E0D02F = (2, false, false) ∧ resolved false 0 true 0xE0E040BF = (0, false, false) ∧
    resolved false 0 true 0x12345678 = (0, false, true) := by
  decide

/-- VR8 to VR11, on the fixture ROMs. -/
theorem test_resolve_two_completions :
    resolved true 0x0100BCBD true 0x12345678 = (1, false, false) ∧
    resolved true 0x0100BCBD true 0xE0E0D02F = (1, false, false) ∧
    resolved true 0xDEADBEEF true 0xE0E0D02F = (2, true, false) ∧
    resolved true 0xDEADBEEF true 0x12345678 = (0, true, true) := by
  decide

/-- The rows that write nothing, and the two diagnostics (R115, R117, R118, R120, R121). -/
theorem test_resolver_rows :
    next (exec .resASkip (st r0)) = some (st r0) ∧ next (exec .resAIgn (st r0)) = some (st r0) ∧
    next (exec .resAMiss (st r0)) = some (stW { w0 with unkA := true }) ∧
    next (exec .resBSkipAwon (st r0)) = some (st r0) ∧ next (exec .resBSkipNone (st r0)) = some (st r0) ∧
    next (exec .resBIgn (st r0)) = some (st r0) ∧
    next (exec .resBMiss (st r0)) = some (stW { w0 with unkB := true }) := by
  decide

/-- VR2 and VR5 as rows, on the fixture ROMs. -/
theorem test_resolver_hits :
    (resAHit fixture (stA .idle 48 0 0x0100BCBD)).wires = { w0 with k := 1, aWon := true } ∧
    (resBHit fixture (stB .idle 32 0xE0E0D02F)).wires = { w0 with k := 2 } := by
  decide

/-- VL2. -/
theorem test_latch_set :
    (next (exec .latchSet { regs := { r0 with key := 5, act := true }, wires := { w0 with k := 1 }, inputs := [] })).map
        (fun t => (t.regs.key, t.regs.act)) = some (1, true) := by
  decide

/-- VL3. -/
theorem test_latch_hold :
    (next (exec .latchHold (st { r0 with key := 5, act := true }))).map (fun t => (t.regs.key, t.regs.act)) =
      some (5, true) := by
  decide

/-- VI4. -/
theorem test_idle_ovf :
    (next (exec .idleOvf (st { r0 with key := 1, act := true, tov := true }))).map
        (fun t => (t.regs.key, t.regs.act, t.regs.tov)) = some (0, false, true) := by
  decide

/-- VI2. -/
theorem test_idle_thresh :
    (next (exec .idleThresh (st { r0 with key := 1, act := true, tcnt := 20001 }))).map
        (fun t => (t.regs.key, t.regs.act, t.regs.tcnt)) = some (0, true, 20001) := by
  decide

/-- VI1. -/
theorem test_idle_none :
    (next (exec .idleNone (st { r0 with key := 1, act := true, tcnt := 20000 }))).map
        (fun t => (t.regs.key, t.regs.act)) = some (1, true) := by
  decide

/-- VI1, VI2, VI6 as whole POLLs. -/
theorem test_poll_idle_check :
    (next (exec (.poll true) (st { r0 with key := 1, act := true, tcnt := 20000 }))).map
        (fun t => (t.regs.key, t.regs.act)) = some (1, true) ∧
    (next (exec (.poll true) (st { r0 with key := 1, act := true, tcnt := 20001 }))).map
        (fun t => (t.regs.key, t.regs.act)) = some (0, true) ∧
    (next (exec (.poll true) (st { r0 with key := 1, act := true, tcnt := 20001, tov := true }))).map
        (fun t => (t.regs.key, t.regs.act)) = some (0, false) := by
  decide

/-! ## Witnesses: the hypotheses of every statement that has some can be met

A theorem `witness_<Statement>` gives states and operands that meet all hypotheses of that statement together, one per
clause, at a boundary value of the clause's range. -/

theorem witness_ResetWritesEveryRegister :
    (4 : BitVec 8).toNat < 8 ∧ (4 : BitVec 8).getLsbD 2 = true ∧ (7 : BitVec 8).toNat < 8 ∧
    (7 : BitVec 8).getLsbD 2 = true := by
  decide

theorem witness_PollOnEdgeRunsThePickedRows : (false : Bool) ≠ State.reset.regs.prev := by decide

theorem witness_StepRunsTheDecodedOperation :
    (State.reset.withStimulus [.tick, .poll true]).inputs = ⟨.bcmd, 0b010, false⟩ :: [⟨.bcmd, 0b001, true⟩] ∧
    decode ⟨.bcmd, 0b010, false⟩ = .ok .tick ∧ State.reset.inputs = [] := by
  decide

theorem witness_DecodedRowMatchesItsSelector : decode ⟨.dsel .a, 0x7F, true⟩ = .ok .aHdrRiseOk := by decide

theorem witness_RowsAreExclusiveButForTheIdleCheck :
    Selector.wf ⟨.dsel .b, 0xBF, true⟩ = true ∧ Point.dsel .b ≠ .isel ∧ Selector.wf ⟨.isel, 0, false⟩ = true ∧
    Selector.wf ⟨.isel, 1, false⟩ = true ∧ Selector.wf ⟨.isel, 2, false⟩ = true ∧
    Selector.wf ⟨.isel, 3, false⟩ = true := by
  decide

/-- A state whose one pending choice is `w`. -/
def pending (w : Selector) : State := { State.reset with inputs := [w] }

theorem witness_StepRefusesSelectorsThatPickNothing :
    (∀ w, (pending w).inputs = w :: []) ∧
    Selector.wf ⟨.dsel .a, 0xC0, false⟩ = false ∧ (0xC0 : BitVec 8).toNat / 64 = 3 ∧
    Selector.wf ⟨.dsel .b, 0xFF, false⟩ = false ∧ (0xFF : BitVec 8).toNat / 64 = 3 ∧
    Selector.wf ⟨.asel, 0b101, false⟩ = false ∧ Selector.wf ⟨.bsel, 0b0101, false⟩ = false ∧
    2 ^ Point.lsel.width ≤ (2 : BitVec 8).toNat ∧ 2 ^ Point.bsel.width ≤ (16 : BitVec 8).toNat :=
  ⟨fun _ => rfl, by decide⟩

/-- R57: a reserved selector is refused under the name that says why. -/
theorem test_step_refuses_reserved_selectors :
    next (step (pending ⟨.asel, 0b101, false⟩)) = none ∧ next (step (pending ⟨.bcmd, 0b1000, false⟩)) = none := by
  decide

theorem witness_RomWordLayout : romOfWord 0x1FF = some (.hit 0xFF) ∧ romOfWord 0x100 = some .ignored := by decide

theorem witness_SamplerRowsEmitTheEvent :
    true = (st r0).regs.prev ∧ false ≠ (st r0).regs.prev ∧ (st r0).regs.tov = false ∧
    false ≠ (st { r0 with tov := true }).regs.prev ∧ (st { r0 with tov := true }).regs.tov = true := by
  decide

theorem witness_DecoderARowsFromIdle : (stA .idle 48 0x4004 0x0100BCBD).regs.phaseA = .idle := rfl

theorem witness_DecoderARowsFromHeader :
    (stA .header 0 0 0).regs.phaseA = .header ∧
    (630 < (631 : Ticks).toNat ∧ (631 : Ticks).toNat < 690) ∧ (630 < (689 : Ticks).toNat ∧ (689 : Ticks).toNat < 690) ∧
    (630 : Ticks).toNat ≤ 630 ∧ 690 ≤ (690 : Ticks).toNat ∧
    (270 < (271 : Ticks).toNat ∧ (271 : Ticks).toNat < 370) ∧ (270 < (369 : Ticks).toNat ∧ (369 : Ticks).toNat < 370) ∧
    (270 : Ticks).toNat ≤ 270 ∧ 370 ≤ (370 : Ticks).toNat := by
  decide

theorem witness_DecoderARowsOnFallingData :
    (stA .data 15 0 0).regs.phaseA = .data ∧ (stA .data 16 0 0).regs.phaseA = .data ∧
    (200 < (201 : Ticks).toNat ∧ (201 : Ticks).toNat < 300) ∧ (200 < (299 : Ticks).toNat ∧ (299 : Ticks).toNat < 300) ∧
    (35 < (36 : Ticks).toNat ∧ (36 : Ticks).toNat < 130) ∧ (35 < (129 : Ticks).toNat ∧ (129 : Ticks).toNat < 130) ∧
    (35 : Ticks).toNat ≤ 35 ∧ (130 ≤ (130 : Ticks).toNat ∧ (130 : Ticks).toNat ≤ 200) ∧
    (130 ≤ (200 : Ticks).toNat ∧ (200 : Ticks).toNat ≤ 200) ∧ 300 ≤ (300 : Ticks).toNat := by
  decide

theorem witness_DecoderARowsOnRisingData :
    (stA .data 47 0 0).regs.phaseA = .data ∧ (stA .data 47 0 0).regs.cntA.toNat ≠ 48 ∧
    (stA .data 48 0 0).regs.phaseA = .data ∧ (stA .data 48 0 0).regs.cntA.toNat = 48 := by
  decide

theorem witness_DecoderBRowsFromIdle : (stB .idle 32 0xE0E0E01F).regs.phaseB = .idle := rfl

theorem witness_DecoderBRowsFromHeader :
    (stB .header 0 0).regs.phaseB = .header ∧
    (700 < (701 : Ticks).toNat ∧ (701 : Ticks).toNat < 990) ∧ (700 < (989 : Ticks).toNat ∧ (989 : Ticks).toNat < 990) ∧
    (700 : Ticks).toNat ≤ 700 ∧ 990 ≤ (990 : Ticks).toNat := by
  decide

theorem witness_DecoderBRowsOnFallingData :
    (stB .data 31 0).regs.phaseB = .data ∧
    (250 < (251 : Ticks).toNat ∧ (251 : Ticks).toNat < 350) ∧ (250 < (349 : Ticks).toNat ∧ (349 : Ticks).toNat < 350) ∧
    (35 < (36 : Ticks).toNat ∧ (36 : Ticks).toNat < 220) ∧ (35 < (219 : Ticks).toNat ∧ (219 : Ticks).toNat < 220) ∧
    (35 : Ticks).toNat ≤ 35 ∧ (220 ≤ (220 : Ticks).toNat ∧ (220 : Ticks).toNat ≤ 250) ∧
    (220 ≤ (250 : Ticks).toNat ∧ (250 : Ticks).toNat ≤ 250) ∧ 350 ≤ (350 : Ticks).toNat := by
  decide

theorem witness_DecoderBRowsOnRisingData :
    (stB .data 31 0).regs.phaseB = .data ∧ (stB .data 31 0).regs.cntB.toNat ≠ 32 ∧
    (stB .data 32 0).regs.phaseB = .data ∧ (stB .data 32 0).regs.cntB.toNat = 32 := by
  decide

theorem witness_DurationOutsideTestedWindowsCollapses :
    ((stA .header 0 0 0).regs.phase .a = .header ∧ (630 : Ticks).toNat ≤ Config.descA.hl.lo.toNat) ∧
    ((stA .header 0 0 0).regs.phase .a = .header ∧ Config.descA.hh.hi.toNat ≤ (370 : Ticks).toNat) ∧
    ((stA .data 2 2 0).regs.phase .a = .data ∧ Config.descA.ds.hi.toNat ≤ (200 : Ticks).toNat ∧
      (200 : Ticks).toNat ≤ Config.descA.dl.lo.toNat) := by
  decide

theorem witness_SaturatedDurationFailsEveryWindow :
    989 < (990 : Ticks).toNat ∧ 989 < (0xFFFF : Ticks).toNat ∧ (stA .idle 0 0 0).regs.phase .a = .idle ∧
    (stA .header 0 0 0).regs.phase .a = .header ∧ (stB .data 32 0).regs.phase .b = .data := by
  decide

theorem witness_CodeCompleteOnlyAtTheTargetCount :
    (decEdge Config.hw .b ⟨true, 100⟩ (stB .data 32 0xE0E0E01F)).wires.done .b = true := by
  decide

theorem witness_HeaderIsHeldOnlyByAFallOrAGoodRise :
    (decEdge Config.hw .a ⟨true, 689⟩ (stA .header 0 0 0)).regs.phase .a = .header ∧
    (decEdge Config.hw .a ⟨false, 0⟩ (stA .idle 0 0 0)).regs.phase .a = .header := by
  decide

theorem witness_DecodersAreIndependent :
    st { r0 with key := 5, tcnt := 3 } ≠ st r0 ∧
    (st { r0 with key := 5, tcnt := 3 }).regs.phase .a = (st r0).regs.phase .a ∧
    (st { r0 with key := 5, tcnt := 3 }).regs.cnt .a = (st r0).regs.cnt .a ∧
    codeOf .a (st { r0 with key := 5, tcnt := 3 }).regs = codeOf .a (st r0).regs := by
  decide

/-- 48 bits of Protocol A at the edges of its windows. -/
def bitsA : List (Ticks × Ticks) := List.replicate 16 (80, 299) ++ List.replicate 32 (0xFFFF, 36)

/-- 32 bits of Protocol B at the edges of its windows. -/
def bitsB : List (Ticks × Ticks) := List.replicate 16 (0, 251) ++ List.replicate 16 (100, 219)

theorem validFrame_a : ValidFrame Config.hw .a 631 369 bitsA :=
  { headerLow := by decide, headerHigh := by decide, length := by decide, data := by
      simp only [bitsA, List.mem_append, List.mem_replicate]
      rintro p (⟨-, rfl⟩ | ⟨-, rfl⟩) <;> decide }

theorem validFrame_b : ValidFrame Config.hw .b 989 701 bitsB :=
  { headerLow := by decide, headerHigh := by decide, length := by decide, data := by
      simp only [bitsB, List.mem_append, List.mem_replicate]
      rintro p (⟨-, rfl⟩ | ⟨-, rfl⟩) <;> decide }

theorem witness_ValidFrameCompletesWithItsCode :
    (st r0).regs.phase .a = .idle ∧ ValidFrame Config.hw .a 631 369 bitsA ∧
    (st r0).regs.phase .b = .idle ∧ ValidFrame Config.hw .b 989 701 bitsB :=
  ⟨rfl, validFrame_a, rfl, validFrame_b⟩

theorem witness_CodeCompleteOnlyAfterAValidFrame :
    (st r0).regs.phase .b = .idle ∧ frameEdges 100 850 850 bitsB 100 ≠ [] ∧
    Alternates false (frameEdges 100 850 850 bitsB 100) ∧
    (decRun Config.hw .b (frameEdges 100 850 850 bitsB 100) (st r0)).wires.done .b = true := by
  refine ⟨rfl, by decide, ?_, by decide +kernel⟩
  repeat' constructor

theorem witness_ProtocolAFrameLatchesItsKeyAtTheLastEdge :
    (st r0).regs.phaseA = .idle ∧ (st r0).regs.phaseB = .idle ∧ ValidFrame Config.hw .a 631 369 bitsA :=
  ⟨rfl, rfl, validFrame_a⟩

theorem witness_ResolverRowsOfStageA :
    (stW w0).wires.doneA = false ∧ (stW { w0 with doneA := true }).wires.doneA = true ∧
    (stW { w0 with aWon := true }).wires.aWon = true := by
  decide

theorem witness_ResolverRowsOfStageB :
    (stW w0).wires.aWon = false ∧ (stW w0).wires.doneB = false ∧ (stW { w0 with doneB := true }).wires.aWon = false ∧
    (stW { w0 with doneB := true }).wires.doneB = true := by
  decide

/-- On the fixture, with a code that hits and one that does not. -/
theorem witness_ResolveTriesAThenB :
    (∀ code, fixture.romA code ≠ .hit 0) ∧ fixture.romA 0x0100BCBD = .hit 1 ∧ fixture.romB 0xE0E040BF = .ignored := by
  refine ⟨fun code => ?_, by decide, by decide⟩
  simp only [fixture]
  split
  · decide
  · split <;> decide

theorem witness_LatchRowsStoreARealKey :
    (stW { w0 with k := 1 }).wires.k ≠ 0 ∧ (stW w0).wires.k = 0 := by
  decide

theorem witness_BlockSchedulesNeverStop :
    BlockSchedule (State.reset.withStimulus [.reset, .nop, .tick, .poll true, .tickpoll false]) := by
  unfold BlockSchedule
  decide

/-- The invariants hold with both decoders in DATA, B one bit before its end. -/
theorem inv_data : Inv Config.hw { (st { r0 with phaseA := .data, cntA := 30, phaseB := .data, cntB := 31 }) with
    inputs := [⟨.bcmd, 0b001, false⟩] } :=
  { countA := { header := by decide, bound := by decide, closing := by decide }
    countB := { header := by decide, bound := by decide, closing := by decide }
    apart := by decide, key := by decide, schedule := by unfold BlockSchedule; decide }

theorem witness_EveryStepKeepsTheInvariants :
    ∃ s t, Inv Config.hw s ∧ s.regs.phaseA = .data ∧ step s = .next t :=
  ⟨_, _, inv_data, rfl, rfl⟩

theorem witness_DecodersNeverCompleteTogether :
    ∃ s t, Inv Config.hw s ∧ s.regs.phaseB = .data ∧ step s = .next t :=
  ⟨_, _, inv_data, rfl, rfl⟩

theorem witness_OverflowFlagChangesOnlyByWrapEdgeOrReset :
    (∃ t, IsBlockOp (.poll false) = true ∧ exec (.poll false) (st { r0 with tov := true }) = .next t ∧
      (st { r0 with tov := true }).regs.tov = true ∧ t.regs.tov = false) ∧
    (∃ t, IsBlockOp .tick = true ∧ exec .tick (st { r0 with tcnt := 0xFFFF }) = .next t ∧
      (st { r0 with tcnt := 0xFFFF }).regs.tov = false ∧ t.regs.tov = true) :=
  ⟨⟨_, rfl, rfl, rfl, rfl⟩, ⟨_, rfl, rfl, rfl, rfl⟩⟩

/-- The clause on ACT falling. The clause on ACT rising needs a hit of ROM_A or ROM_B, whose contents are free: its
witness is on the fixture, through the same `poll`. -/
theorem witness_ActivityFallsOnlyOnOverflowOrReset :
    (∃ t, IsBlockOp (.poll true) = true ∧ exec (.poll true) (st { r0 with act := true, tov := true }) = .next t ∧
      (st { r0 with act := true, tov := true }).regs.act = true ∧ t.regs.act = false) ∧
    (poll fixture true (st { r0 with prev := false, phaseA := .data, cntA := 48, accALo := 0x0100BCBD })).regs.act =
      true :=
  ⟨⟨_, rfl, rfl, rfl, rfl⟩, by decide⟩

theorem witness_PrevIsTheLevelOfTheLastPoll :
    (∃ t, exec (.poll false) (st r0) = .next t) ∧ ∃ t, exec .aIdleFall (st r0) = .next t :=
  ⟨⟨_, rfl⟩, ⟨_, rfl⟩⟩

theorem witness_DecodersHoldWithoutAnEdge :
    ∃ t, IsBlockOp (.poll true) = true ∧ Instr.poll true ≠ .reset ∧ exec (.poll true) (stA .data 48 1 1) = .next t ∧
      t.wires.edge = false :=
  ⟨_, rfl, by decide, rfl, rfl⟩

theorem witness_HighAccumulatorNeverInfluencesTheKey :
    ∃ t, core.run 2 ((stA .data 48 0x4004 0x0100BCBD).withStimulus [.tick, .poll false]) = .next t :=
  ⟨_, rfl⟩

theorem witness_LatchNeverInfluencesTheDecoders :
    ∃ t, core.run 2 ((st { r0 with key := 5, act := true }).withStimulus [.tick, .poll false]) = .next t :=
  ⟨_, rfl⟩

theorem witness_EdgeEventsAlternate :
    BlockSchedule (State.reset.withStimulus [.tick, .poll false, .poll true, .tickpoll false]) ∧
    NoReset (State.reset.withStimulus [.tick, .poll false, .poll true, .tickpoll false]) ∧
    (events 4 (State.reset.withStimulus [.tick, .poll false, .poll true, .tickpoll false])).length = 3 := by
  unfold BlockSchedule NoReset
  decide

/-- `n` TICKs with a NOP and an edge-less POLL among them, and a TICKPOLL that finds the line high: `n + 1` TICKs. -/
def silence (n : Nat) : List Selector :=
  List.replicate n (encode .tick) ++ [encode .nop, encode (.poll true), encode (.tickpoll true)]

theorem silence_seesNoEdge (n : Nat) : ∀ w ∈ silence n, SeesNoEdge true w := by
  intro w hw
  simp only [silence, List.mem_append, List.mem_replicate, List.mem_cons, List.not_mem_nil, or_false] at hw
  obtain ⟨-, rfl⟩ | rfl | rfl | rfl := hw
  · exact .inr (.inl rfl)
  · exact .inl rfl
  · exact .inr (.inr (.inl rfl))
  · exact .inr (.inr (.inr rfl))

theorem tickCount_silence (n : Nat) (w : Selector) : tickCount (silence n ++ [w]) = n + 1 + ticksIn w := by
  have h1 : ticksIn (encode .tick) = 1 := rfl
  have h2 : ticksIn (encode .nop) = 0 := rfl
  have h3 : ticksIn (encode (.poll true)) = 0 := rfl
  have h4 : ticksIn (encode (.tickpoll true)) = 1 := rfl
  simp [tickCount, silence, h1, h2, h3, h4]
  omega

/-- 65535 TICKs up to an edge seen by a POLL, and 65536 up to one seen by a TICKPOLL. -/
theorem witness_DurationCountsTheTicksBetweenPolls :
    ∀ i n, (i = .poll false ∧ n = 65535) ∨ (i = .tickpoll false ∧ n = 65536) →
      ∃ s : State, s.regs.tcnt = 0 ∧ s.regs.tov = false ∧
        s.inputs = silence 65534 ++ encode i :: [encode .tick] ∧
        (∀ w ∈ silence 65534, SeesNoEdge s.regs.prev w) ∧ PollsAt (!s.regs.prev) (encode i) ∧
        tickCount (silence 65534 ++ [encode i]) = n := by
  intro i n h
  refine ⟨{ State.reset with inputs := silence 65534 ++ encode i :: [encode .tick] }, rfl, rfl, rfl,
    silence_seesNoEdge _, ?_, ?_⟩
  · obtain ⟨rfl, -⟩ | ⟨rfl, -⟩ := h
    · exact .inl rfl
    · exact .inr rfl
  · rw [tickCount_silence]
    obtain ⟨rfl, rfl⟩ | ⟨rfl, rfl⟩ := h <;> rfl

/-- 20001 and 65536 TICKs, by a TICKPOLL, from a state that holds a key. -/
theorem witness_SilenceReleasesTheKey :
    ∀ n, n = 19999 ∨ n = 65534 → ∃ s : State, s.regs.key = 1 ∧ s.regs.act = true ∧
      s.inputs = silence n ++ encode (.tickpoll true) :: [] ∧ (∀ w ∈ silence n, SeesNoEdge s.regs.prev w) ∧
      PollsAt s.regs.prev (encode (.tickpoll true)) ∧
      tickCount (silence n ++ [encode (.tickpoll true)]) = n + 2 ∧ 20001 ≤ n + 2 :=
  fun n h => ⟨{ (st { r0 with key := 1, act := true }) with inputs := silence n ++ encode (.tickpoll true) :: [] },
    rfl, rfl, rfl, silence_seesNoEdge _, .inr rfl, tickCount_silence _ _, by omega⟩

end Sys2Proof.Tests
end

section
/-! PROOFS. What a step does, by what is pending: the equations of `step` that `step_cases` reads backwards. -/

namespace Sys2Proof.Machine

/-- R48, R53: no pending choice sets no strobe. -/
theorem step_of_nothing_pending {s : State} (hs : s.inputs = []) : step s = exec .nop s := by
  simp only [step, hs]

/-- R6: the oldest pending choice is consumed, and the rest stay pending. -/
theorem step_of_decode_ok {s : State} {w : Selector} {rest : List Selector} {i : Instr}
    (hs : s.inputs = w :: rest) (hd : decode w = .ok i) : step s = exec i { s with inputs := rest } := by
  simp only [step, hs, hd]

/-- Settles O9, from the equations of `step` for a choice that decodes and for none pending. -/
theorem stepRunsTheDecodedOperation : Obligations.StepRunsTheDecodedOperation :=
  ⟨fun _ _ _ _ => step_of_decode_ok, fun _ => step_of_nothing_pending⟩

end Sys2Proof.Machine
end

section
/-! PROOFS. What a transition of one decoder leaves in that decoder's PHASE and CNT, and that it leaves everything
else alone (spec/41_decoder_common.md R76, R78). -/

namespace Sys2Proof.Machine

/-! ### PHASE and CNT of a decoder under its own writers -/

section
variable (s : State) (x : Side)

@[simp] theorem State.setPhase_phase (p : Phase) : (s.setPhase x p).regs.phase x = p := by cases x <;> rfl
@[simp] theorem State.setPhase_cnt (p : Phase) : (s.setPhase x p).regs.cnt x = s.regs.cnt x := by cases x <;> rfl

@[simp] theorem State.setCnt_phase (v : Count) : (s.setCnt x v).regs.phase x = s.regs.phase x := by cases x <;> rfl
@[simp] theorem State.setCnt_cnt (v : Count) : (s.setCnt x v).regs.cnt x = v := by cases x <;> rfl

@[simp] theorem State.zeroAcc_phase : (s.zeroAcc x).regs.phase x = s.regs.phase x := by cases x <;> rfl
@[simp] theorem State.zeroAcc_cnt : (s.zeroAcc x).regs.cnt x = s.regs.cnt x := by cases x <;> rfl

@[simp] theorem State.collapse_phase : (s.collapse x).regs.phase x = .idle := s.setPhase_phase x .idle
@[simp] theorem State.collapse_cnt : (s.collapse x).regs.cnt x = s.regs.cnt x := s.setPhase_cnt x .idle

@[simp] theorem State.append_phase (c : Params) (b : Bool) : (s.append c x b).regs.phase x = s.regs.phase x := by
  cases x
  · simp [State.append_a_regs]
  · rfl

@[simp] theorem State.append_cnt (c : Params) (b : Bool) : (s.append c x b).regs.cnt x = s.regs.cnt x + 1 :=
  State.setCnt_cnt _ x _

end

/-! ### A decoder's transition writes that decoder only -/

/-- The state with the registers and the `done` wire of decoder `x` blotted out: what is left is what a transition of
`x` may not change (R78). -/
def State.without (x : Side) (s : State) : State :=
  match x with
  | .a =>
    { s with
      regs := { s.regs with phaseA := .idle, cntA := 0, accAHi := 0, accALo := 0 }
      wires := { s.wires with doneA := false } }
  | .b =>
    { s with
      regs := { s.regs with phaseB := .idle, cntB := 0, accB := 0 }
      wires := { s.wires with doneB := false } }

section
variable (s : State) (x : Side)

@[simp] theorem State.setPhase_without (p : Phase) : (s.setPhase x p).without x = s.without x := by cases x <;> rfl
@[simp] theorem State.setCnt_without (v : Count) : (s.setCnt x v).without x = s.without x := by cases x <;> rfl
@[simp] theorem State.setDone_without (v : Bool) : (s.setDone x v).without x = s.without x := by cases x <;> rfl
@[simp] theorem State.zeroAcc_without : (s.zeroAcc x).without x = s.without x := by cases x <;> rfl
@[simp] theorem State.collapse_without : (s.collapse x).without x = s.without x := s.setPhase_without x .idle

@[simp] theorem State.append_without (c : Params) (b : Bool) : (s.append c x b).without x = s.without x := by
  cases x
  · simp [State.without, State.append_a_regs]
  · rfl

end

/-- R78: an edge event changes in decoder `x`'s transition nothing but decoder `x`. -/
@[simp] theorem decEdge_without (c : Params) (x : Side) (e : EdgeEvent) (s : State) :
    (decEdge c x e s).without x = s.without x := by
  unfold decEdge
  cases s.regs.phase x with
  | idle => cases e.level <;> simp [idleRise, idleFall]
  | header =>
    cases e.level
    · cases inWin (c.desc x).hh e.dur <;> simp [hdrFallOk, hdrFallBad]
    · cases inWin (c.desc x).hl e.dur <;> simp [hdrRiseOk, hdrRiseBad]
  | data =>
    cases e.level
    · cases (classify (c.desc x) e.dur).bad <;> cases (classify (c.desc x) e.dur).bit <;>
        simp [dataFallBad, dataFallOne, dataFallZero]
    · cases full c x s.regs <;> simp [dataRiseDone, dataRiseMore]

/-- R78: whatever does not look at decoder `x` reads the same before and after its transition. -/
theorem decEdge_frame {α : Type} (c : Params) (x : Side) (e : EdgeEvent) (s : State) (f : State → α)
    (hf : ∀ u : State, f (u.without x) = f u) : f (decEdge c x e s) = f s := by
  rw [← hf, decEdge_without, hf]

section
variable (c : Params) (x : Side) (e : EdgeEvent) (s : State)

@[simp] theorem decEdge_prev : (decEdge c x e s).regs.prev = s.regs.prev :=
  decEdge_frame c x e s (fun u => u.regs.prev) fun _ => by cases x <;> rfl
@[simp] theorem decEdge_tcnt : (decEdge c x e s).regs.tcnt = s.regs.tcnt :=
  decEdge_frame c x e s (fun u => u.regs.tcnt) fun _ => by cases x <;> rfl
@[simp] theorem decEdge_tov : (decEdge c x e s).regs.tov = s.regs.tov :=
  decEdge_frame c x e s (fun u => u.regs.tov) fun _ => by cases x <;> rfl
@[simp] theorem decEdge_key : (decEdge c x e s).regs.key = s.regs.key :=
  decEdge_frame c x e s (fun u => u.regs.key) fun _ => by cases x <;> rfl
@[simp] theorem decEdge_act : (decEdge c x e s).regs.act = s.regs.act :=
  decEdge_frame c x e s (fun u => u.regs.act) fun _ => by cases x <;> rfl
@[simp] theorem decEdge_edge : (decEdge c x e s).wires.edge = s.wires.edge :=
  decEdge_frame c x e s (fun u => u.wires.edge) fun _ => by cases x <;> rfl
@[simp] theorem decEdge_inputs : (decEdge c x e s).inputs = s.inputs :=
  decEdge_frame c x e s (fun u => u.inputs) fun _ => by cases x <;> rfl

@[simp] theorem decEdge_a_phaseB : (decEdge c .a e s).regs.phaseB = s.regs.phaseB :=
  decEdge_frame c .a e s (fun u => u.regs.phaseB) fun _ => rfl
@[simp] theorem decEdge_a_cntB : (decEdge c .a e s).regs.cntB = s.regs.cntB :=
  decEdge_frame c .a e s (fun u => u.regs.cntB) fun _ => rfl
@[simp] theorem decEdge_b_phaseA : (decEdge c .b e s).regs.phaseA = s.regs.phaseA :=
  decEdge_frame c .b e s (fun u => u.regs.phaseA) fun _ => rfl
@[simp] theorem decEdge_b_cntA : (decEdge c .b e s).regs.cntA = s.regs.cntA :=
  decEdge_frame c .b e s (fun u => u.regs.cntA) fun _ => rfl

end

/-! ### How a decoder comes to be in HEADER or in DATA -/

section
variable {c : Params} {x : Side} {e : EdgeEvent} {s : State}

/-- In HEADER after an event: entered by a falling edge, with nothing counted, or kept by a rising edge inside
header-low. -/
theorem decEdge_header (h : (decEdge c x e s).regs.phase x = .header) :
    (e.level = false ∧ (decEdge c x e s).regs.cnt x = 0) ∨
    (e.level = true ∧ inWin (c.desc x).hl e.dur = true ∧ s.regs.phase x = .header ∧
      (decEdge c x e s).regs.cnt x = s.regs.cnt x) := by
  cases hl : e.level <;> cases hp : s.regs.phase x
  case false.idle => simp [decEdge, hp, hl, idleFall]
  case false.header =>
    cases hw : inWin (c.desc x).hh e.dur <;> simp [decEdge, hp, hl, hw, hdrFallOk, hdrFallBad] at h
  case false.data =>
    obtain ⟨-, hc⟩ | ⟨-, -, hc⟩ | ⟨-, -, hc⟩ := classify_cases (c.desc x) e.dur <;>
      simp [decEdge, hp, hl, hc, dataFallOne, dataFallZero, dataFallBad] at h
  case true.idle => simp [decEdge, hp, hl, idleRise] at h
  case true.header =>
    cases hw : inWin (c.desc x).hl e.dur
    · simp [decEdge, hp, hl, hw, hdrRiseBad] at h
    · simp [decEdge, hp, hl, hw, hdrRiseOk]
  case true.data =>
    cases hf : full c x s.regs <;> simp [decEdge, hp, hl, hf, dataRiseMore, dataRiseDone] at h

/-- In DATA after a rising edge: it was there, short of its target, and counted nothing. -/
theorem decEdge_data_of_rise (hl : e.level = true) (h : (decEdge c x e s).regs.phase x = .data) :
    s.regs.phase x = .data ∧ s.regs.cnt x ≠ (c.desc x).width ∧ (decEdge c x e s).regs.cnt x = s.regs.cnt x := by
  cases hp : s.regs.phase x with
  | idle => simp [decEdge, hp, hl, idleRise] at h
  | header => cases hw : inWin (c.desc x).hl e.dur <;> simp [decEdge, hp, hl, hw, hdrRiseOk, hdrRiseBad] at h
  | data =>
    by_cases hn : s.regs.cnt x = (c.desc x).width
    · simp [decEdge, hp, hl, full, hn, dataRiseDone] at h
    · simp [decEdge, hp, hl, full, hn, dataRiseMore]

/-- In DATA after a falling edge: entered with the count it had in HEADER, by a gap inside header-high, or kept by a
gap inside a data window, which counts one bit. -/
theorem decEdge_data_of_fall (hl : e.level = false) (h : (decEdge c x e s).regs.phase x = .data) :
    (s.regs.phase x = .header ∧ inWin (c.desc x).hh e.dur = true ∧
      (decEdge c x e s).regs.cnt x = s.regs.cnt x) ∨
    (s.regs.phase x = .data ∧ (inWin (c.desc x).dl e.dur = true ∨ inWin (c.desc x).ds e.dur = true) ∧
      (decEdge c x e s).regs.cnt x = s.regs.cnt x + 1) := by
  cases hp : s.regs.phase x with
  | idle => simp [decEdge, hp, hl, idleFall] at h
  | header =>
    cases hw : inWin (c.desc x).hh e.dur
    · simp [decEdge, hp, hl, hw, hdrFallBad] at h
    · simp [decEdge, hp, hl, hw, hdrFallOk]
  | data =>
    obtain ⟨hw, hc⟩ | ⟨-, hw, hc⟩ | ⟨-, -, hc⟩ := classify_cases (c.desc x) e.dur
    · simp [decEdge, hp, hl, hc, hw, dataFallOne]
    · simp [decEdge, hp, hl, hc, hw, dataFallZero]
    · simp [decEdge, hp, hl, hc, dataFallBad] at h

end

/-- Settles O31, from how a decoder comes to be in HEADER. -/
theorem headerIsHeldOnlyByAFallOrAGoodRise : Obligations.HeaderIsHeldOnlyByAFallOrAGoodRise := by
  intro c x e s h
  obtain ⟨hl, -⟩ | ⟨-, hw, -, -⟩ := decEdge_header h
  · exact .inl hl
  · exact .inr hw

end Sys2Proof.Machine
end

section
/-! PROOFS. What RESOLVE and LATCH do after the decoders, and what a POLL leaves in the registers and wires the
statements on the state speak of (spec/44_resolver_latch.md, spec/40_sampler.md R61). -/

namespace Sys2Proof.Machine

/-! ### RESOLVE writes four wires, and `k` is NOKEY or a key of a ROM -/

/-- R115: RESOLVE writes `k`, `unk_a`, `unk_b` and `a_won`, and nothing else. -/
theorem resolve_writes (c : Params) (s : State) :
    ∃ k w a b, resolve c s = { s with wires := { s.wires with k := k, aWon := w, unkA := a, unkB := b } } := by
  have hA : ∃ k w a, resolveA c (resolveBegin c s) =
      { s with wires := { s.wires with k := k, aWon := w, unkA := a, unkB := false } } := by
    obtain ⟨-, h⟩ | ⟨_, -, -, h⟩ | ⟨-, -, h⟩ | ⟨-, -, h⟩ := resolveA_cases c (resolveBegin c s) <;> exact ⟨_, _, _, h⟩
  obtain ⟨_, _, _, hA⟩ := hA
  unfold resolve
  rw [hA]
  obtain ⟨-, h⟩ | ⟨-, -, h⟩ | ⟨_, -, -, -, h⟩ | ⟨-, -, -, h⟩ | ⟨-, -, -, h⟩ := resolveB_cases c _ <;>
    exact ⟨_, _, _, _, h⟩

section
variable (c : Params) (s : State)

@[simp] theorem resolve_regs : (resolve c s).regs = s.regs := by
  obtain ⟨_, _, _, _, h⟩ := resolve_writes c s
  rw [h]

@[simp] theorem resolve_inputs : (resolve c s).inputs = s.inputs := by
  obtain ⟨_, _, _, _, h⟩ := resolve_writes c s
  rw [h]

@[simp] theorem resolve_edge : (resolve c s).wires.edge = s.wires.edge := by
  obtain ⟨_, _, _, _, h⟩ := resolve_writes c s
  rw [h]

end

/-- R36, R115: the key RESOLVE puts on `k` is NOKEY or a member of KEYS. -/
theorem resolve_k (s : State) : (resolve Config.hw s).wires.k = 0 ∨ (resolve Config.hw s).wires.k ∈ Config.hw.keys := by
  have hA : (resolveA Config.hw (resolveBegin Config.hw s)).wires.k = 0 ∨
      (resolveA Config.hw (resolveBegin Config.hw s)).wires.k ∈ Config.hw.keys := by
    obtain ⟨-, h⟩ | ⟨k, -, hk, h⟩ | ⟨-, -, h⟩ | ⟨-, -, h⟩ := resolveA_cases Config.hw (resolveBegin Config.hw s) <;>
      rw [h]
    case inr.inl => exact .inr (Config.hit_mem_keys .a _ k hk).1
    all_goals exact .inl rfl
  obtain ⟨-, h⟩ | ⟨-, -, h⟩ | ⟨k, -, -, hk, h⟩ | ⟨-, -, -, h⟩ | ⟨-, -, -, h⟩ :=
    resolveB_cases Config.hw (resolveA Config.hw (resolveBegin Config.hw s)) <;> rw [resolve, h]
  case inr.inr.inl => exact .inr (Config.hit_mem_keys .b _ k hk).1
  all_goals exact hA

/-! ### LATCH writes KEY and ACT -/

/-- R123: LATCH stores a key that is not NOKEY and raises ACT with it. -/
theorem latch_regs (c : Params) (s : State) :
    (latch c s).regs =
      { s.regs with
        key := if s.wires.k = c.nokey then s.regs.key else s.wires.k
        act := if s.wires.k = c.nokey then s.regs.act else true } := by
  obtain ⟨hk, h⟩ | ⟨hk, h⟩ := latch_cases c s <;> rw [h] <;> simp [hk]

@[simp] theorem latch_wires (c : Params) (s : State) : (latch c s).wires = s.wires := by
  obtain ⟨-, h⟩ | ⟨-, h⟩ := latch_cases c s <;> rw [h]

/-! ### POLL -/

/-- R126: right after an edge was sampled the idle check finds nothing. -/
theorem idlechk_eq_self {s : State} (c : Params) (hv : s.regs.tov = false) (ht : s.regs.tcnt = 0) :
    idlechk c s = s := by
  have ho : overThresh c s.regs = false := by simp [overThresh, ht]
  simp only [idlechk, hv, ho, idleNone]

/-- The edge event a POLL samples (R63, R64). -/
def sampledEvent (c : Params) (ir : Bool) (r : Regs) : EdgeEvent :=
  ⟨ir, if r.tov then c.durSat else r.tcnt⟩

/-- The state in which the decoders of a POLL on an edge leave the block to RESOLVE (R61). -/
def decoded (c : Params) (ir : Bool) (s : State) : State :=
  decEdge c .b (sampledEvent c ir s.regs) (decEdge c .a (sampledEvent c ir s.regs) (sampled c ir s))

/-- R61: a POLL on an edge is the sampler, the decoders, RESOLVE and LATCH; its idle check does nothing. -/
theorem poll_eq_latch {c : Params} {ir : Bool} {s : State} (h : ir ≠ s.regs.prev) :
    poll c ir s = latch c (resolve c (decoded c ir s)) := by
  rw [poll_edge c ir s h]
  apply idlechk_eq_self <;> simp [onEvent, latch_regs, sampled]

/-- R14, R61: every POLL leaves the sampled level in PREV. -/
@[simp] theorem poll_prev (c : Params) (ir : Bool) (s : State) : (poll c ir s).regs.prev = ir := by
  by_cases h : ir = s.regs.prev
  · rw [poll_noEdge c ir s h, idlechk_eq]
    exact h.symm
  · simp [poll_eq_latch h, latch_regs, decoded, sampled]

/-- R26, R61: the wire `edge` of a POLL says whether the level differs from PREV. -/
@[simp] theorem poll_edgeWire (c : Params) (ir : Bool) (s : State) :
    (poll c ir s).wires.edge = edgeSeen ir s.regs := by
  by_cases h : ir = s.regs.prev
  · rw [poll_noEdge c ir s h, idlechk_eq]
    simp [edgeSeen, h, Wires.quiet]
  · simp [poll_eq_latch h, decoded, sampled, edgeSeen, h]

/-- R64: a POLL clears TOV on an edge, and leaves it alone otherwise. -/
theorem poll_tov (c : Params) (ir : Bool) (s : State) :
    (poll c ir s).regs.tov = (!edgeSeen ir s.regs && s.regs.tov) := by
  by_cases h : ir = s.regs.prev
  · rw [poll_noEdge c ir s h, idlechk_eq]
    simp [edgeSeen, h]
  · simp [poll_eq_latch h, latch_regs, decoded, sampled, edgeSeen, h]

end Sys2Proof.Machine
end

section
/-! PROOFS. The invariants of spec/10_state.md R32: RESET has them, and every operation of the block keeps them. The
edge of a POLL is the one case with content: a falling edge finds room to count, since a full counter waits for a
rising edge, and it never takes both decoders to DATA at equal counts, since their windows are disjoint. -/

namespace Sys2Proof.Machine

open Sys2Proof.Safety

/-- Settles O44, by evaluation of the reset state. -/
theorem invariantsHoldAtReset : Obligations.InvariantsHoldAtReset where
  countA := { header := by decide, bound := by decide, closing := by decide }
  countB := { header := by decide, bound := by decide, closing := by decide }
  apart := by decide
  key := .inl rfl
  schedule := by simp [BlockSchedule, State.reset]

/-! ### The count of one decoder -/

section
variable {c : Params} {x : Side} {r r' : Regs}

/-- The count's invariant reads PHASE, CNT and PREV only. -/
theorem countInv_congr (h : CountInv c x r) (hp : r'.phase x = r.phase x) (hc : r'.cnt x = r.cnt x)
    (hv : r'.prev = r.prev) : CountInv c x r' where
  header := by rw [hp, hc]; exact h.header
  bound := by rw [hp, hc]; exact h.bound
  closing := by rw [hp, hc, hv]; exact h.closing

@[simp] theorem Regs.phase_of_prev (v : Bool) : ({ r with prev := v } : Regs).phase x = r.phase x := by cases x <;> rfl
@[simp] theorem Regs.cnt_of_prev (v : Bool) : ({ r with prev := v } : Regs).cnt x = r.cnt x := by cases x <;> rfl

/-- R32 item 4: with the line high a decoder in DATA has room for one more bit, so CNT does not wrap. -/
theorem countInv_room {v : Bool} (h : CountInv c x { r with prev := v }) (hp : r.phase x = .data) (hv : v = true) :
    (r.cnt x + 1).toNat = (r.cnt x).toNat + 1 ∧ (r.cnt x).toNat < (c.desc x).width.toNat := by
  have hle : (r.cnt x).toNat ≤ (c.desc x).width.toNat := by simpa using h.bound (by simpa using hp)
  have hne : (r.cnt x).toNat ≠ (c.desc x).width.toNat := fun he => by
    simpa [hv] using h.closing (by simpa using hp) (by simpa using BitVec.eq_of_toNat_eq he)
  have hmax := Config.count_lt (c.desc x).width
  have h1 : (1 : Count).toNat = 1 := rfl
  refine ⟨?_, by omega⟩
  rw [BitVec.toNat_add, h1, Config.two_pow_cntW, Nat.mod_eq_of_lt (by omega)]

end

/-- R32 item 4: an edge event keeps the count's invariant. In `s` PREV is the event's level already; before the event it
was the other level. -/
theorem countInv_decEdge {c : Params} {x : Side} {e : EdgeEvent} {s : State} (hv : s.regs.prev = e.level)
    (h : CountInv c x { s.regs with prev := !e.level }) : CountInv c x (decEdge c x e s).regs where
  header hp := by
    obtain ⟨-, hn⟩ | ⟨-, -, hp, hn⟩ := decEdge_header hp
    · exact hn
    · simpa [hn] using h.header (by simpa using hp)
  bound hp := by
    cases hl : e.level with
    | true =>
      obtain ⟨hp, -, hn⟩ := decEdge_data_of_rise hl hp
      simpa [hn] using h.bound (by simpa using hp)
    | false =>
      obtain ⟨hp, -, hn⟩ | ⟨hp, -, hn⟩ := decEdge_data_of_fall hl hp
      · have h0 : s.regs.cnt x = 0 := by simpa using h.header (by simpa using hp)
        simp [hn, h0]
      · obtain ⟨hsucc, hlt⟩ := countInv_room h hp (by simp [hl])
        rw [hn, hsucc]
        exact hlt
  closing hp hfull := by
    cases hl : e.level with
    | true =>
      obtain ⟨-, hne, hn⟩ := decEdge_data_of_rise hl hp
      exact absurd (hn.symm.trans hfull) hne
    | false => simp [hv, hl]

/-! ### The two decoders -/

/-- A gap inside header-high of B is inside no window that takes A to DATA or leaves it there (R85, R100). -/
theorem headerHigh_b_disjoint {d : Ticks} (h : inWin Config.descB.hh d = true) :
    inWin Config.descA.hh d = false ∧ inWin Config.descA.dl d = false ∧ inWin Config.descA.ds d = false := by
  simp only [← Bool.not_eq_true, inWin_iff, Config.descA, Config.descB, BitVec.ofNat_eq_ofNat,
    BitVec.toNat_ofNat, Config.two_pow_tickW, Nat.reduceMod] at h ⊢
  omega

/-- What R32 item 6 rests on: an edge event leaves decoder B ahead of decoder A wherever both are in DATA. B never
enters DATA there while A does or is in it; when A enters, B has counted a bit. A starts in `s` and B in `u`. -/
theorem apart_decEdge {e : EdgeEvent} {s u : State}
    (hA : CountInv Config.hw .a { s.regs with prev := !e.level })
    (hB : CountInv Config.hw .b { u.regs with prev := !e.level })
    (hap : s.regs.phaseA = .data → u.regs.phaseB = .data → s.regs.cntA.toNat < u.regs.cntB.toNat)
    (hpA : (decEdge Config.hw .a e s).regs.phase .a = .data) (hpB : (decEdge Config.hw .b e u).regs.phase .b = .data) :
    ((decEdge Config.hw .a e s).regs.cnt .a).toNat < ((decEdge Config.hw .b e u).regs.cnt .b).toNat := by
  cases hl : e.level with
  | true =>
    obtain ⟨hpA, -, hnA⟩ := decEdge_data_of_rise hl hpA
    obtain ⟨hpB, -, hnB⟩ := decEdge_data_of_rise hl hpB
    rw [hnA, hnB]
    exact hap hpA hpB
  | false =>
    obtain ⟨-, hw, -⟩ | ⟨hpB, -, hnB⟩ := decEdge_data_of_fall hl hpB
    · obtain ⟨hh, hdl, hds⟩ := headerHigh_b_disjoint hw
      obtain ⟨-, hw, -⟩ | ⟨-, hw, -⟩ := decEdge_data_of_fall hl hpA <;> simp [hh, hdl, hds] at hw
    · have hsuccB := (countInv_room hB hpB (by simp [hl])).1
      obtain ⟨hpA, -, hnA⟩ | ⟨hpA, -, hnA⟩ := decEdge_data_of_fall hl hpA
      · have h0 : s.regs.cnt .a = 0 := hA.header hpA
        rw [hnA, hnB, hsuccB, h0]
        exact Nat.succ_pos _
      · have hsuccA := (countInv_room hA hpA (by simp [hl])).1
        rw [hnA, hnB, hsuccA, hsuccB]
        exact Nat.succ_lt_succ (hap hpA hpB)

/-! ### The operations of the block -/

section
variable {s : State}

/-- The invariants read the registers and the schedule only, so no wire matters. -/
theorem inv_of_regs {t : State} (h : Inv Config.hw s) (hr : t.regs = s.regs) (hin : t.inputs = s.inputs) :
    Inv Config.hw t where
  countA := hr ▸ h.countA
  countB := hr ▸ h.countB
  apart := hr ▸ h.apart
  key := hr ▸ h.key
  schedule := by simpa [BlockSchedule, hin] using h.schedule

/-- The idle check keeps the invariants: it writes KEY with NOKEY, and ACT. -/
theorem inv_idlechk (h : Inv Config.hw s) : Inv Config.hw (idlechk Config.hw s) := by
  rw [idlechk_eq]
  refine { countA := countInv_congr h.countA rfl rfl rfl, countB := countInv_congr h.countB rfl rfl rfl
           apart := h.apart, key := ?_, schedule := h.schedule }
  dsimp only
  split
  · exact .inl rfl
  · exact h.key

/-- LATCH keeps the invariants where the key it stores is a legal one. -/
theorem inv_latch (h : Inv Config.hw s) (hk : s.wires.k = 0 ∨ s.wires.k ∈ Config.hw.keys) :
    Inv Config.hw (latch Config.hw s) := by
  obtain ⟨-, hl⟩ | ⟨-, hl⟩ := latch_cases Config.hw s <;> rw [hl]
  · exact h
  · exact { countA := countInv_congr h.countA rfl rfl rfl, countB := countInv_congr h.countB rfl rfl rfl
            apart := h.apart, key := hk, schedule := h.schedule }

/-- The two decoders keep the invariants. In `s` PREV is the event's level already; before the event it was the other
level. -/
theorem inv_decEdge {e : EdgeEvent} (hv : s.regs.prev = e.level)
    (h : Inv Config.hw { s with regs := { s.regs with prev := !e.level } }) :
    Inv Config.hw (decEdge Config.hw .b e (decEdge Config.hw .a e s)) := by
  have hB : CountInv Config.hw .b { (decEdge Config.hw .a e s).regs with prev := !e.level } :=
    countInv_congr h.countB (by simp) (by simp) rfl
  exact {
    countA := countInv_congr (countInv_decEdge hv h.countA) (by simp) (by simp) (by simp)
    countB := countInv_decEdge (by simpa using hv) hB
    apart := by simpa using apart_decEdge h.countA hB (by simpa using h.apart)
    key := by simpa using h.key
    schedule := by simpa [BlockSchedule] using h.schedule }

/-- POLL keeps the invariants. -/
theorem inv_poll (h : Inv Config.hw s) (ir : Bool) : Inv Config.hw (poll Config.hw ir s) := by
  by_cases hir : ir = s.regs.prev
  · rw [poll_noEdge _ _ _ hir]
    exact inv_idlechk (inv_of_regs h rfl rfl)
  · have hv : (!ir) = s.regs.prev := Bool.not_eq.mpr hir
    rw [poll_eq_latch hir]
    refine inv_latch (inv_of_regs (inv_decEdge rfl ?_) (resolve_regs _ _) (resolve_inputs _ _)) (resolve_k _)
    exact { countA := countInv_congr h.countA rfl rfl hv, countB := countInv_congr h.countB rfl rfl hv
            apart := h.apart, key := h.key, schedule := h.schedule }

/-- TICK keeps the invariants. -/
theorem inv_tick (h : Inv Config.hw s) : Inv Config.hw (tick Config.hw s) where
  countA := countInv_congr h.countA rfl rfl rfl
  countB := countInv_congr h.countB rfl rfl rfl
  apart := h.apart
  key := h.key
  schedule := h.schedule

/-- Every operation of the block keeps the invariants. -/
theorem inv_exec {i : Instr} {t : State} (h : Inv Config.hw s) (hi : IsBlockOp i = true) (ht : exec i s = .next t) :
    Inv Config.hw t := by
  cases i <;> cases hi <;> cases ht
  case reset =>
    have h0 := invariantsHoldAtReset
    exact { countA := h0.countA, countB := h0.countB, apart := h0.apart, key := h0.key, schedule := h.schedule }
  case nop => exact inv_of_regs h rfl rfl
  case tick => exact inv_tick h
  case poll ir => exact inv_poll h ir
  case tickpoll ir => exact inv_poll (inv_tick h) ir

end

/-- R31, R48: a selector of the block's strobes picks an operation of the block. -/
theorem isBlockOp_of_blockLevel {w : Selector} {i : Instr} (hw : w.blockLevel = true) (hd : decode w = .ok i) :
    IsBlockOp i = true := by
  obtain ⟨rst, tick, poll, hw⟩ := blockLevel_strobes w hw
  rw [hw, decode_bcmd] at hd
  cases rst <;> cases tick <;> cases poll <;> cases hd <;> rfl

/-- Settles O45: a step runs NOP or the operation of a pending block choice, and each keeps the invariants. -/
theorem everyStepKeepsTheInvariants : Obligations.EveryStepKeepsTheInvariants := by
  intro s t h hs
  obtain ⟨-, ht⟩ | ⟨w, rest, i, hin, hd, ht⟩ := step_cases hs
  · exact inv_exec h rfl ht
  · have hsched : ∀ v ∈ w :: rest, v.blockLevel = true := hin ▸ h.schedule
    have hrest : Inv Config.hw { s with inputs := rest } :=
      { countA := h.countA, countB := h.countB, apart := h.apart, key := h.key
        schedule := fun v hv => hsched v (List.mem_cons_of_mem w hv) }
    exact inv_exec hrest (isBlockOp_of_blockLevel (hsched w List.mem_cons_self) hd) ht

end Sys2Proof.Machine
end

section
/-! PROOFS. Who writes PREV, TOV and ACT (spec/10_state.md R14, R16, R25). -/

namespace Sys2Proof.Machine

open Sys2Proof.Safety

/-! ### PREV -/

/-- R74: an append writes an accumulator and a count, and leaves PREV alone. -/
theorem append_prev (s : State) (c : Params) (x : Side) (b : Bool) : (s.append c x b).regs.prev = s.regs.prev := by
  cases x
  · rw [State.append_a_regs]
  · rfl

/-- Settles O49: POLL and RESET write PREV, and no other operation names it. -/
theorem prevIsTheLevelOfTheLastPoll : Obligations.PrevIsTheLevelOfTheLastPoll := by
  intro i s t h
  cases i <;> cases h
  case poll ir => exact poll_prev _ ir s
  case tickpoll ir => exact poll_prev _ ir _
  case aDataFallOne => exact append_prev s _ .a true
  case aDataFallZero | aDataFallBad => exact append_prev s _ .a false
  all_goals rfl

/-! ### TOV -/

/-- Settles O47: TICK alone sets TOV, by the wrap; POLL clears it where it sees an edge. -/
theorem overflowFlagChangesOnlyByWrapEdgeOrReset : Obligations.OverflowFlagChangesOnlyByWrapEdgeOrReset := by
  intro i s t hi ht
  cases i <;> cases hi <;> cases ht
  case reset => simp [Regs.reset]
  case nop => simp +contextual
  case tick => simp +contextual [tovNext_eq]
  case poll ir => simp +contextual [poll_tov]
  case tickpoll ir => simp +contextual [tickpoll, poll_tov, tovNext_eq]

/-! ### ACT -/

/-- R123, R124: how POLL can change ACT. -/
theorem poll_act (c : Params) (ir : Bool) (s : State) :
    (s.regs.act = false → (poll c ir s).regs.act = true →
      (poll c ir s).wires.k ≠ c.nokey ∧ (poll c ir s).regs.key = (poll c ir s).wires.k) ∧
    (s.regs.act = true → (poll c ir s).regs.act = false →
      (poll c ir s).regs.tov = true ∧ (poll c ir s).wires.edge = false) := by
  by_cases h : ir = s.regs.prev
  · rw [poll_noEdge c ir s h, idlechk_eq]
    cases htov : s.regs.tov <;> simp +contextual [htov, Wires.quiet]
  · rw [poll_eq_latch h]
    obtain ⟨-, hl⟩ | ⟨hk, hl⟩ := latch_cases c (resolve c (decoded c ir s)) <;> rw [hl]
    · simp +contextual [decoded, sampled]
    · simp [hk]

/-- Settles O48: of the block's operations RESET and POLL alone write ACT. -/
theorem activityFallsOnlyOnOverflowOrReset : Obligations.ActivityFallsOnlyOnOverflowOrReset := by
  intro i s t hi ht
  cases i <;> cases hi <;> cases ht
  case reset => simp [Regs.reset]
  case nop => simp +contextual
  case tick => simp +contextual
  case poll ir =>
    obtain ⟨hrise, hfall⟩ := poll_act Config.hw ir s
    exact ⟨hrise, fun ha ht => .inr (hfall ha ht)⟩
  case tickpoll ir =>
    obtain ⟨hrise, hfall⟩ := poll_act Config.hw ir (tick Config.hw s)
    exact ⟨hrise, fun ha ht => .inr (hfall ha ht)⟩

end Sys2Proof.Machine
end

section
/-! PROOFS. The words of the ROM results (spec/20_memory.md R37, spec/30_encoding.md R56): a word is a bit above a key
code, and what it stands for is settled by that bit and by whether the key is 0x00. -/

namespace Sys2Proof.Machine

/-- A word with one bit above it, as a number. -/
theorem append_bit_toNat {n : Nat} (f : Bool) (v : BitVec n) :
    (BitVec.ofBool f ++ v).toNat = (if f then 2 ^ n else 0) + v.toNat := by
  rw [BitVec.toNat_append, ← Nat.shiftLeft_add_eq_or_of_lt v.isLt]
  cases f <;> simp [Nat.shiftLeft_eq]

/-- Every word of `1 + n` bits is a bit above a word of `n` bits. -/
theorem exists_append_bit {n : Nat} (v : BitVec (1 + n)) : ∃ (f : Bool) (k : BitVec n), v = BitVec.ofBool f ++ k := by
  refine ⟨v.getLsbD n, v.setWidth n, ?_⟩
  ext i hi
  obtain hlt | rfl : i < n ∨ i = n := by omega
  · simp [BitVec.getElem_append, hlt, BitVec.getLsbD_eq_getElem hi]
  · simp [BitVec.getElem_append]

/-- R37: what a ROM word stands for, by its two fields. -/
theorem romOfWord_append (f : Bool) (k : KeyCode) :
    romOfWord (BitVec.ofBool f ++ k) =
      if f then if k = 0 then some .ignored else some (.hit k) else if k = 0 then some .miss else none := by
  simp only [romOfWord, append_low, append_top]

/-- R57: the words that stand for no result have no found bit and a key other than 0x00. -/
theorem romOfWord_append_eq_none_iff (f : Bool) (k : KeyCode) :
    romOfWord (BitVec.ofBool f ++ k) = none ↔ f = false ∧ k ≠ 0 := by
  rw [romOfWord_append]
  split_ifs with hf hk hk
  · simp [hf]
  · simp [hf]
  · simp [hk]
  · simpa [hf] using hk

/-- R37: a ROM word is the word of the result it stands for. -/
theorem romWord_of_romOfWord {v : BitVec (1 + Config.keyW)} {r : RomResult} (h : romOfWord v = some r) :
    romWord r = v := by
  obtain ⟨f, k, rfl⟩ := exists_append_bit v
  rw [romOfWord_append] at h
  split_ifs at h with hf hk hk <;> cases h
  · rw [hf, hk]; rfl
  · rw [hf]; rfl
  · rw [Bool.eq_false_of_not_eq_true hf, hk]; rfl

/-- Settles O17: the layout is the value of a bit above a key, and every word is such a pair. -/
theorem romWordLayout : Obligations.RomWordLayout := by
  refine ⟨append_bit_toNat true, rfl, rfl, fun v => ⟨?_, fun r => romWord_of_romOfWord⟩⟩
  obtain ⟨f, k, rfl⟩ := exists_append_bit (n := Config.keyW) v
  have hk : k = 0 ↔ k.toNat = 0 := BitVec.toNat_inj.symm
  have hlt : k.toNat < 256 := k.isLt
  rw [romOfWord_append_eq_none_iff, append_bit_toNat, Ne, hk]
  cases f <;> simp [hlt]

end Sys2Proof.Machine
end

section
/-! PROOFS. The facts about the encodings of Laws/PerInstr.lean, as one statement about every operation. -/

namespace Sys2Proof.Laws.EncodedSelector

/-- R48, R54, R55: an operation's encoding can occur and picks the operation. -/
theorem statement (i : Instr) : Statement i := by
  cases i
  exacts [reset, nop, tick, poll _, tickpoll _, sampleNoedge, sampleEdge _, sampleEdgeOvf _,
    aIdleFall, aIdleRise, aHdrRiseOk, aHdrRiseBad, aHdrFallOk, aHdrFallBad,
    aDataFallOne, aDataFallZero, aDataFallBad, aDataRiseMore, aDataRiseDone,
    bIdleFall, bIdleRise, bHdrRiseOk, bHdrRiseBad, bHdrFallOk, bHdrFallBad,
    bDataFallOne, bDataFallZero, bDataFallBad, bDataRiseMore, bDataRiseDone,
    resASkip, resAHit, resAIgn, resAMiss, resBSkipAwon, resBSkipNone, resBHit, resBIgn, resBMiss,
    latchSet, latchHold, idleOvf, idleThresh, idleNone]

end Sys2Proof.Laws.EncodedSelector
end

section
/-! PROOFS. The operation map as a decoder (spec/30_encoding.md R47, R57). That two rows exclude each other is a fact
about their masks and patterns alone, so it holds of every selector; which selectors some row picks is settled format
by format, on the bits of the selector. -/

namespace Sys2Proof.Machine

/-! ### `decode` answers the first of the picked operations -/

/-- A selector wider than its format picks nothing (R47). -/
theorem decode_of_not_fits {w : Selector} (hf : w.fits = false) : decode w = .error .tooWide := by
  simp [decode, hf]

/-- R47: the operation a selector decodes to is the first one it picks. -/
theorem decode_eq_ok_iff {w : Selector} {i : Instr} : decode w = .ok i ↔ (picks w).head? = some i := by
  cases hf : w.fits with
  | false => simp [decode, picks, hf]
  | true =>
    cases hr : (opcodeTable w.irIn).find? (rowMatches w) <;> simp [decode, picks, hf, hr]

/-- R47: a decoded operation is that of a row which matches the selector. -/
theorem exists_row_of_decode_eq_ok {w : Selector} {i : Instr} (hd : decode w = .ok i) :
    w.fits = true ∧ ∃ r ∈ opcodeTable w.irIn, rowMatches w r = true ∧ r.instr = i := by
  cases hf : w.fits with
  | false => simp [decode_of_not_fits hf] at hd
  | true =>
    refine ⟨rfl, ?_⟩
    cases hr : (opcodeTable w.irIn).find? (rowMatches w) with
    | none => simp [decode, hf, hr] at hd
    | some r =>
      have hi : r.instr = i := by simpa [decode, hf, hr] using hd
      exact ⟨r, List.mem_of_find?_eq_some hr, List.find?_some hr, hi⟩

/-- A row matches at its own point, where its mask cuts the selector down to its pattern (R47). -/
theorem rowMatches_iff {w : Selector} {r : OpRow} :
    rowMatches w r = true ↔ r.point = w.point ∧ w.sel &&& r.mask = r.pattern := by
  simp [rowMatches]

/-- Every row of the map matches the encoding of its operation. -/
theorem rowMatches_encode : ∀ ir, ∀ r ∈ opcodeTable ir, rowMatches (encode r.instr) r = true := by
  decide

/-- Settles O11: the row `decode` found is the one asked for, and it matches the encoding of its own operation. -/
theorem decodedRowMatchesItsSelector : Obligations.DecodedRowMatchesItsSelector := by
  intro w i hd
  obtain ⟨hf, r, hr, hm, rfl⟩ := exists_row_of_decode_eq_ok hd
  obtain ⟨hp, hsel⟩ := rowMatches_iff.mp hm
  obtain ⟨hpe, hsele⟩ := rowMatches_iff.mp (rowMatches_encode w.irIn r hr)
  exact ⟨hpe.symm.trans hp, of_decide_eq_true hf, r, hr, rfl, hp, hsel, hsele⟩

/-! ### Rows exclude each other by their masks and patterns -/

/-- Two rows of one point other than ISEL differ in their patterns on a bit that both masks look at. -/
def rowsApart (r q : OpRow) : Bool :=
  r.point != q.point || r.point == .isel || (r.pattern &&& q.mask) != (q.pattern &&& r.mask)

/-- R47, R55: the rows of the map are apart. -/
theorem opcodeTable_pairwise_apart : ∀ ir, (opcodeTable ir).Pairwise (rowsApart · ·) := by
  decide

/-- Rows that are apart match a common selector at ISEL only: elsewhere both patterns would be the selector's bits on
the common mask. -/
theorem point_eq_isel_of_rowMatches {w : Selector} {r q : OpRow} (h : rowsApart r q = true)
    (hr : rowMatches w r = true) (hq : rowMatches w q = true) : w.point = .isel := by
  obtain ⟨hrp, hrs⟩ := rowMatches_iff.mp hr
  obtain ⟨hqp, hqs⟩ := rowMatches_iff.mp hq
  have hcommon : r.pattern &&& q.mask = q.pattern &&& r.mask := by
    rw [← hrs, ← hqs, BitVec.and_assoc, BitVec.and_assoc, BitVec.and_comm r.mask]
  simpa [rowsApart, hrp, hqp, hcommon] using h

/-- R47, R55: at every point but ISEL a selector picks nothing besides the operation it decodes to. -/
theorem picks_eq_singleton {w : Selector} {i : Instr} (hp : w.point ≠ .isel) (hd : decode w = .ok i) :
    picks w = [i] := by
  have hf := (exists_row_of_decode_eq_ok hd).1
  rw [decode_eq_ok_iff] at hd
  have hpw := (opcodeTable_pairwise_apart w.irIn).filter (rowMatches w)
  have hm : ∀ r ∈ (opcodeTable w.irIn).filter (rowMatches w), rowMatches w r = true := fun _ => List.of_mem_filter
  simp only [picks, hf, if_true] at hd ⊢
  match hl : (opcodeTable w.irIn).filter (rowMatches w) with
  | [] => simp [hl] at hd
  | [r] => simpa [hl] using hd
  | r :: q :: _ =>
    rw [hl] at hpw hm
    exact absurd (point_eq_isel_of_rowMatches (List.rel_of_pairwise_cons hpw List.mem_cons_self) (hm r (by simp))
      (hm q (by simp))) hp

/-! ### Which selectors some row picks -/

/-- Every byte below `2 ^ n` is written in `n` bits. -/
theorem exists_packBits {n : Nat} {v : BitVec 8} (hv : v.toNat < 2 ^ n) :
    ∃ bs : List Bool, bs.length = n ∧ v = packBits bs := by
  induction n generalizing v with
  | zero => exact ⟨[], rfl, BitVec.eq_of_toNat_eq (Nat.lt_one_iff.mp hv)⟩
  | succ n ih =>
    have hhalf : (v >>> 1).toNat < 2 ^ n := by
      rw [BitVec.toNat_ushiftRight, Nat.shiftRight_eq_div_pow]
      omega
    obtain ⟨bs, hlen, hbs⟩ := ih hhalf
    refine ⟨bs ++ [v.getLsbD 0], by simp [hlen], ?_⟩
    have hlow : v = (v >>> 1) <<< 1 ||| (BitVec.ofBool (v.getLsbD 0)).setWidth 8 := by
      ext i hi
      cases i <;> simp [BitVec.getLsbD_eq_getElem, Nat.add_comm 1, hi]
    rw [hlow, hbs]
    simp [packBits]

/-- R54: at DSEL the two decoders have one list of patterns. -/
theorem opcodeTable_any_dsel (x : Side) (v : BitVec 8) (ir : Bool) :
    (opcodeTable ir).any (rowMatches ⟨.dsel x, v, ir⟩) = dselRowsA.any (fun r => v &&& r.mask == r.pattern) := by
  cases x <;> rfl

/-- R54, R57: the patterns of DSEL leave out phase 0b11 and nothing else. -/
theorem dselRowsA_any_packBits : ∀ p1 p0 level hl hh ds dl full : Bool,
    dselRowsA.any (fun r => packBits [p1, p0, level, hl, hh, ds, dl, full] &&& r.mask == r.pattern) =
      ((packBits [p1, p0, level, hl, hh, ds, dl, full]).toNat / 64 != 3) := by
  decide

/-- R57: of the words of a format's width the reserved encodings alone match no row. -/
theorem opcodeTable_any_packBits : ∀ (p : Point) (bs : List Bool) (ir : Bool), bs.length = p.width →
    (opcodeTable ir).any (rowMatches ⟨p, packBits bs, ir⟩) = Selector.unreserved ⟨p, packBits bs, ir⟩
  | .bcmd, [rst, tick, poll], ir, _ => by revert rst tick poll ir; decide
  | .ssel, [edge, tov], ir, _ => by revert edge tov ir; decide
  | .dsel x, [p1, p0, level, hl, hh, ds, dl, full], ir, _ =>
    (opcodeTable_any_dsel x _ ir).trans (dselRowsA_any_packBits p1 p0 level hl hh ds dl full)
  | .asel, [done, found, key], ir, _ => by revert done found key ir; decide
  | .bsel, [won, done, found, key], ir, _ => by revert won done found key ir; decide
  | .lsel, [kvalid], ir, _ => by revert kvalid ir; decide
  | .isel, [tov, thresh], ir, _ => by revert tov thresh ir; decide

/-- R57: a row is found for a selector of its format's width unless that is one of the reserved encodings. -/
theorem find?_rowMatches_isSome {w : Selector} (hf : w.fits = true) :
    ((opcodeTable w.irIn).find? (rowMatches w)).isSome = w.unreserved := by
  obtain ⟨p, v, ir⟩ := w
  obtain ⟨bs, hlen, rfl⟩ := exists_packBits (of_decide_eq_true hf)
  rw [List.isSome_find?]
  exact opcodeTable_any_packBits p bs ir hlen

/-- R57: the reserved encodings are refused for what their format reserves. -/
theorem decode_of_reserved {w : Selector} (hf : w.fits = true) (hu : w.unreserved = false) :
    decode w = .error (rejectReason w.point) := by
  have hnone := find?_rowMatches_isSome hf
  rw [hu, Option.isSome_eq_false_iff, Option.isNone_iff_eq_none] at hnone
  simp only [decode, hf, hnone, if_true]

/-- R57: the selectors that pick an operation are those that can occur. -/
theorem exists_decode_eq_ok_iff (w : Selector) : (∃ i, decode w = .ok i) ↔ w.wf = true := by
  cases hf : w.fits with
  | false => simp [Selector.wf, hf, decode_of_not_fits hf]
  | true =>
    rw [Selector.wf, hf, Bool.true_and, ← find?_rowMatches_isSome hf]
    cases hr : (opcodeTable w.irIn).find? (rowMatches w) <;> simp [decode, hf, hr]

/-- Settles O12, by what each format reserves. -/
theorem decodeAcceptsExactlyTheSelectorsThatOccur : Obligations.DecodeAcceptsExactlyTheSelectorsThatOccur :=
  exists_decode_eq_ok_iff

/-- R126: ISEL picks by its two bits, IDLE.OVF before IDLE.THRESH. -/
theorem picks_isel {w : Selector} (hf : w.fits = true) (hp : w.point = .isel) :
    picks w =
      if w.sel.toNat = 3 then [.idleOvf, .idleThresh]
      else if w.sel.toNat = 2 then [.idleOvf]
      else if w.sel.toNat = 1 then [.idleThresh]
      else [.idleNone] := by
  obtain ⟨_, v, ir⟩ := w
  cases hp
  obtain ⟨bs, hlen, rfl⟩ := exists_packBits (of_decide_eq_true hf)
  match bs, hlen with
  | [tov, thresh], _ => cases tov <;> cases thresh <;> cases ir <;> rfl

/-- Settles O13: outside ISEL the rows are apart, and a selector that can occur is one that decodes. -/
theorem rowsAreExclusiveButForTheIdleCheck : Obligations.RowsAreExclusiveButForTheIdleCheck := by
  refine ⟨fun w hw hp => ?_, fun w hw hp => ?_⟩
  · obtain ⟨i, hd⟩ := (exists_decode_eq_ok_iff w).mpr hw
    exact ⟨i, hd, picks_eq_singleton hp hd⟩
  · exact picks_isel (Bool.and_eq_true_iff.mp hw).1 hp

/-! ### The encoder -/

/-- Settles O10: an encoding picks its operation, and outside ISEL it picks nothing else; of the three
rows of ISEL none is encoded as 0b11. -/
theorem decodeOfEncode : Obligations.DecodeOfEncode := by
  intro i
  by_cases hp : (encode i).point = .isel
  · cases i <;> cases hp <;> rfl
  · obtain ⟨hw, hmem⟩ := Laws.EncodedSelector.statement i
    obtain ⟨j, hd⟩ := (exists_decode_eq_ok_iff _).mpr hw
    rw [picks_eq_singleton hp hd, List.mem_singleton] at hmem
    rw [hd, hmem]

/-- Settles O14, by evaluation of the decoder on fixed words. -/
theorem writtenSelectorsDecode : Obligations.WrittenSelectorsDecode := by
  unfold Obligations.WrittenSelectorsDecode
  decide

/-! ### The step on a selector that picks nothing -/

/-- R57: a pending choice that does not decode is refused for the decoder's reason. -/
theorem step_of_decode_error {s : State} {w : Selector} {rest : List Selector} {why : Reject}
    (hs : s.inputs = w :: rest) (hd : decode w = .error why) : step s = .refused (.reservedSelector why) := by
  simp only [step, hs, hd]

/-- Settles O15: too wide a selector and a reserved one are the two ways not to decode. -/
theorem stepRefusesSelectorsThatPickNothing : Obligations.StepRefusesSelectorsThatPickNothing := by
  intro s w rest hs
  refine ⟨fun hw => ?_, fun hwide => ?_, fun x hp hphase => ?_, fun hp hsel => ?_, fun hp hsel => ?_⟩
  · cases hd : decode w with
    | ok i => simp [(exists_decode_eq_ok_iff w).mp ⟨i, hd⟩] at hw
    | error why => exact ⟨why, rfl, step_of_decode_error hs hd⟩
  · exact step_of_decode_error hs (decode_of_not_fits (decide_eq_false (Nat.not_lt.mpr hwide)))
  all_goals
    obtain ⟨p, v, ir⟩ := w
    obtain rfl : p = _ := hp
  · have hu : Selector.unreserved ⟨.dsel x, v, ir⟩ = false := by simpa [Selector.unreserved] using hphase
    exact step_of_decode_error hs (decode_of_reserved (decide_eq_true v.isLt) hu)
  all_goals
    obtain rfl : v = _ := hsel
    exact step_of_decode_error hs (decode_of_reserved rfl rfl)

end Sys2Proof.Machine
end

section
/-! PROOFS. The transition function of a decoder as the row its selector picks (spec/41_decoder_common.md R76), NOP,
and the edge-event word. -/

namespace Sys2Proof.Machine

/-- R54, R76: the row of the named conditions runs as the transition function does. -/
theorem exec_dselRow (x : Side) (e : EdgeEvent) (s : State) :
    exec (dselRow x (s.regs.phase x) e.level (inWin (Config.hw.desc x).hl e.dur) (inWin (Config.hw.desc x).hh e.dur)
      (inWin (Config.hw.desc x).ds e.dur) (inWin (Config.hw.desc x).dl e.dur) (full Config.hw x s.regs)) s =
    .next (decEdge Config.hw x e s) := by
  obtain h | h | h | h | h | h | h | h | h | h | h := decEdge_cases Config.hw x e s
  all_goals
    simp only [full, beq_eq_decide, decide_true, decide_false, h]
    cases x <;> rfl

/-- Settles O27: DSEL decodes to the row of its named conditions, which runs as the transition function does. -/
theorem transitionFunctionTakesThePickedRow : Obligations.TransitionFunctionTakesThePickedRow :=
  fun x e s => ⟨_, decode_dselOf Config.hw x e s.regs, exec_dselRow x e s⟩

/-- Settles O2: NOP quiets the wires and leaves the registers alone. -/
theorem nopKeepsEveryRegister : Obligations.NopKeepsEveryRegister :=
  fun s => ⟨nop Config.hw s, rfl, nop_regs _ s, nop_wires _ s⟩

/-- Settles O16: the word is the level as one bit above the duration. -/
theorem edgeEventWordLayout : Obligations.EdgeEventWordLayout :=
  fun e => append_bit_toNat e.level e.dur

end Sys2Proof.Machine
end

section
/-! PROOFS. The tick counter and the sampler's rows (spec/40_sampler.md R62 to R67): what TICK counts, and what SSEL
picks. -/

namespace Sys2Proof.Machine

open Sys2Proof.Safety

/-- TOV after a tick, as R66 writes it. -/
theorem tovNext_eq_ite (r : Regs) : tovNext r = if r.tcnt.toNat = 65535 then true else r.tov := by
  have hmax : r.tcnt = 0xFFFF ↔ r.tcnt.toNat = 65535 := BitVec.toNat_inj.symm
  rw [tovNext, Config.allOnes_tickW]
  simp only [hmax]

/-- Settles O3: the wrap is at 65535, and the wires of a TICK are quiet. -/
theorem tickCountsAndFlagsTheWrap : Obligations.TickCountsAndFlagsTheWrap := by
  refine ⟨decode_bcmd false true false, fun s => ⟨tick Config.hw s, rfl, ?_, tick_wires _ s⟩⟩
  rw [tick_regs, tcntNext_eq_ofNat, tovNext_eq_ite]

/-- Settles O4: TICKPOLL is defined as the composition. -/
theorem tickpollIsTickThenPoll : Obligations.TickpollIsTickThenPoll :=
  ⟨decode_bcmd false true true, fun s ir => ⟨tick Config.hw s, tickpoll Config.hw ir s, rfl, rfl, rfl⟩⟩

/-- Settles O18: SSEL picks by the edge and TOV, and each row writes what it names. -/
theorem samplerRowsEmitTheEvent : Obligations.SamplerRowsEmitTheEvent := by
  intro s ir
  refine ⟨fun h => ⟨?_, rfl⟩, fun h hv => ⟨?_, _, rfl, rfl, rfl⟩, fun h hv => ⟨?_, _, rfl, rfl, rfl⟩⟩
  · rw [decode_sselOf, if_pos h]
  · rw [decode_sselOf, if_neg h, hv]; rfl
  · rw [decode_sselOf, if_neg h, hv]; rfl

end Sys2Proof.Machine
end

section
/-! PROOFS. POLL as the rows its selectors pick (spec/40_sampler.md R61): each of its stages is what the row picked at
that stage does. -/

namespace Sys2Proof.Machine

open Sys2Proof.Safety

/-! ### Each stage runs the row its selector picks -/

section
variable (s : State)

/-- R62, R63, R64: the sampler on an edge is the row SSEL picks there. -/
theorem runsPicked_sselOf_of_edge {ir : Bool} (h : ir ≠ s.regs.prev) :
    RunsPicked (sselOf ir s.regs) s (sampleOnEdge Config.hw ir s) := by
  refine ⟨_, decode_sselOf ir s.regs, ?_⟩
  rw [if_neg h, sampleOnEdge]
  cases s.regs.tov <;> rfl

/-- R62: without an edge SSEL picks the row that does nothing. -/
theorem runsPicked_sselOf_of_noEdge : RunsPicked (sselOf s.regs.prev s.regs) s s :=
  ⟨.sampleNoedge, by rw [decode_sselOf, if_pos rfl], rfl⟩

/-- R115 to R118: stage A of RESOLVE is the row ASEL picks. -/
theorem runsPicked_aselOf : RunsPicked (aselOf Config.hw s) s (resolveA Config.hw s) := by
  refine ⟨_, decode_aselOf Config.hw s fun h => (Config.hit_mem_keys .a _ 0 h).2 rfl, ?_⟩
  unfold resolveA
  cases s.wires.doneA with
  | false => rfl
  | true => cases hr : Config.hw.romA s.regs.accALo <;> simp only [romRead, lookupCode_a, hr] <;> rfl

/-- R115, R116, R119 to R121: stage B of RESOLVE is the row BSEL picks. -/
theorem runsPicked_bselOf : RunsPicked (bselOf Config.hw s) s (resolveB Config.hw s) := by
  refine ⟨_, decode_bselOf Config.hw s fun h => (Config.hit_mem_keys .b _ 0 h).2 rfl, ?_⟩
  unfold resolveB
  cases s.wires.aWon with
  | true => rfl
  | false =>
    cases s.wires.doneB with
    | false => rfl
    | true => cases hr : Config.hw.romB s.regs.accB <;> simp only [romRead, lookupCode_b, hr] <;> rfl

/-- R123: LATCH is the row LSEL picks. -/
theorem runsPicked_lselOf : RunsPicked (lselOf Config.hw s) s (latch Config.hw s) := by
  refine ⟨_, decode_lselOf Config.hw s, ?_⟩
  obtain ⟨hk, h⟩ | ⟨hk, h⟩ := latch_cases Config.hw s <;> rw [h]
  · rw [if_pos hk]; rfl
  · rw [if_neg hk]; rfl

/-- R126: the idle check is the rows ISEL picks, one after the other. -/
theorem runsAllPicked_iselOf : RunsAllPicked (iselOf Config.hw s) s (idlechk Config.hw s) := by
  rw [RunsAllPicked, picks_iselOf, idlechk]
  cases s.regs.tov <;> cases overThresh Config.hw s.regs <;> rfl

end

/-! ### The whole of POLL -/

/-- Settles O8: the sampler's row does nothing, PREV is the level already, and the idle check runs ISEL's rows. -/
theorem pollWithoutEdgeRunsThePickedRows : Obligations.PollWithoutEdgeRunsThePickedRows := by
  intro s
  have hpoll : exec (.poll s.regs.prev) s = .next (idlechk Config.hw (s.quiet Config.hw)) :=
    congrArg Host.Outcome.next (poll_noEdge Config.hw s.regs.prev s rfl)
  exact ⟨_, _, hpoll, runsPicked_sselOf_of_noEdge (s.quiet Config.hw), runsAllPicked_iselOf (s.quiet Config.hw)⟩

section
variable (c : Params) (x : Side) (e : EdgeEvent) (s : State)

@[simp] theorem decEdge_event : (decEdge c x e s).wires.event = s.wires.event :=
  decEdge_frame c x e s (fun u => u.wires.event) fun _ => by cases x <;> rfl
@[simp] theorem decEdge_k : (decEdge c x e s).wires.k = s.wires.k :=
  decEdge_frame c x e s (fun u => u.wires.k) fun _ => by cases x <;> rfl
@[simp] theorem decEdge_aWon : (decEdge c x e s).wires.aWon = s.wires.aWon :=
  decEdge_frame c x e s (fun u => u.wires.aWon) fun _ => by cases x <;> rfl
@[simp] theorem decEdge_unkA : (decEdge c x e s).wires.unkA = s.wires.unkA :=
  decEdge_frame c x e s (fun u => u.wires.unkA) fun _ => by cases x <;> rfl
@[simp] theorem decEdge_unkB : (decEdge c x e s).wires.unkB = s.wires.unkB :=
  decEdge_frame c x e s (fun u => u.wires.unkB) fun _ => by cases x <;> rfl

@[simp] theorem decEdge_a_doneB : (decEdge c .a e s).wires.doneB = s.wires.doneB :=
  decEdge_frame c .a e s (fun u => u.wires.doneB) fun _ => rfl
@[simp] theorem decEdge_b_doneA : (decEdge c .b e s).wires.doneA = s.wires.doneA :=
  decEdge_frame c .b e s (fun u => u.wires.doneA) fun _ => rfl
@[simp] theorem decEdge_a_accB : (decEdge c .a e s).regs.accB = s.regs.accB :=
  decEdge_frame c .a e s (fun u => u.regs.accB) fun _ => rfl
@[simp] theorem decEdge_b_accAHi : (decEdge c .b e s).regs.accAHi = s.regs.accAHi :=
  decEdge_frame c .b e s (fun u => u.regs.accAHi) fun _ => rfl
@[simp] theorem decEdge_b_accALo : (decEdge c .b e s).regs.accALo = s.regs.accALo :=
  decEdge_frame c .b e s (fun u => u.regs.accALo) fun _ => rfl

end

/-- R115: on wires that are quiet already, RESOLVE has nothing to clear. -/
theorem resolveBegin_eq_self {c : Params} {s : State} (hk : s.wires.k = c.nokey) (hw : s.wires.aWon = false)
    (ha : s.wires.unkA = false) (hb : s.wires.unkB = false) : resolveBegin c s = s := by
  obtain ⟨_, ⟨_, _, _, _, _, _, _, _⟩, _⟩ := s
  cases hk; cases hw; cases ha; cases hb
  rfl

/-- R61: the decoders of a POLL leave the wires of RESOLVE as the start of POLL put them. -/
theorem resolve_decoded (c : Params) (ir : Bool) (s : State) :
    resolve c (decoded c ir s) = resolveB c (resolveA c (decoded c ir s)) := by
  rw [resolve, resolveBegin_eq_self] <;> simp [decoded, sampled, Wires.quiet]

/-- Settles O7: stage by stage, the row picked there. -/
theorem pollOnEdgeRunsThePickedRows : Obligations.PollOnEdgeRunsThePickedRows := by
  intro s ir h
  have hpoll : exec (.poll ir) s = .next (idlechk Config.hw (latch Config.hw
      (resolveB Config.hw (resolveA Config.hw (decoded Config.hw ir s))))) := by
    rw [← resolve_decoded]
    exact congrArg Host.Outcome.next (poll_edge Config.hw ir s h)
  refine ⟨sampledEvent Config.hw ir s.regs, _, _, _, _, _, _, _, hpoll,
    runsPicked_sselOf_of_edge { s with wires := { Wires.quiet Config.hw with edge := true } } h, ?_, ?_,
    transitionFunctionTakesThePickedRow _ _ _, runsPicked_aselOf _, runsPicked_bselOf _, runsPicked_lselOf _,
    runsAllPicked_iselOf _⟩
  · rw [sampleOnEdge_eq]; rfl
  · rw [sampleOnEdge_eq]; exact transitionFunctionTakesThePickedRow .a _ (sampled Config.hw ir s)

end Sys2Proof.Machine
end

section
/-! PROOFS. What a POLL leaves in the registers and in the wires of the sampler and the decoders, by whether it sees an
edge (spec/40_sampler.md R61 to R65). -/

namespace Sys2Proof.Machine

/-! ### A decoder's transition reads that decoder only -/

/-- The registers of decoder `x`, everything else blotted out: the counterpart of `State.without`. -/
def State.only (x : Side) (s : State) : State :=
  match x with
  | .a =>
    { State.reset with
      regs := { State.reset.regs with
        phaseA := s.regs.phaseA, cntA := s.regs.cntA, accAHi := s.regs.accAHi, accALo := s.regs.accALo } }
  | .b =>
    { State.reset with
      regs := { State.reset.regs with phaseB := s.regs.phaseB, cntB := s.regs.cntB, accB := s.regs.accB } }

section
variable (s : State) (x : Side)

@[simp] theorem State.only_phase : (s.only x).regs.phase x = s.regs.phase x := by cases x <;> rfl
@[simp] theorem State.only_cnt : (s.only x).regs.cnt x = s.regs.cnt x := by cases x <;> rfl
@[simp] theorem State.only_only : (s.only x).only x = s.only x := by cases x <;> rfl

@[simp] theorem State.setPhase_only (p : Phase) : (s.setPhase x p).only x = (s.only x).setPhase x p := by
  cases x <;> rfl
@[simp] theorem State.setCnt_only (v : Count) : (s.setCnt x v).only x = (s.only x).setCnt x v := by cases x <;> rfl
@[simp] theorem State.setDone_only (v : Bool) : (s.setDone x v).only x = s.only x := by cases x <;> rfl
@[simp] theorem State.zeroAcc_only : (s.zeroAcc x).only x = (s.only x).zeroAcc x := by cases x <;> rfl
@[simp] theorem State.collapse_only : (s.collapse x).only x = (s.only x).collapse x := s.setPhase_only x .idle

@[simp] theorem State.append_only (c : Params) (b : Bool) : (s.append c x b).only x = (s.only x).append c x b := by
  cases x with
  | a =>
    unfold State.append State.shiftBit
    cases c.descA.split with
    | none => rfl
    | some n => by_cases h : s.regs.cntA.toNat < n.toNat <;> simp [State.only, State.setCnt, h]
  | b => rfl

end

/-- R78: decoder `x`'s transition reads the event and decoder `x`, and nothing else. -/
theorem decEdge_only (c : Params) (x : Side) (e : EdgeEvent) (s : State) :
    (decEdge c x e s).only x = (decEdge c x e (s.only x)).only x := by
  have hfull : full c x (s.only x).regs = full c x s.regs := by simp [full]
  unfold decEdge
  rw [State.only_phase, hfull]
  cases s.regs.phase x with
  | idle => simp [apply_ite (State.only x), idleRise, idleFall]
  | header => simp [apply_ite (State.only x), hdrRiseOk, hdrRiseBad, hdrFallOk, hdrFallBad]
  | data =>
    simp [apply_ite (State.only x), dataRiseDone, dataRiseMore, dataFallBad, dataFallOne, dataFallZero]

@[simp] theorem State.setDone_done (s : State) (x : Side) (v : Bool) : (s.setDone x v).wires.done x = v := by
  cases x <;> rfl

/-- R96, R111: a decoder completes on a rising edge in DATA at its target count, and on no other event. -/
theorem decEdge_done (c : Params) (x : Side) (e : EdgeEvent) (s : State) :
    (decEdge c x e s).wires.done x = (s.regs.phase x == .data && e.level && full c x s.regs) := by
  unfold decEdge
  cases s.regs.phase x with
  | idle => cases e.level <;> simp [idleRise, idleFall]
  | header => simp [apply_ite State.wires, apply_ite (Wires.done · x), hdrRiseOk, hdrRiseBad, hdrFallOk, hdrFallBad]
  | data =>
    cases e.level <;>
      simp [apply_ite State.wires, apply_ite (Wires.done · x), dataRiseDone, dataRiseMore, dataFallBad, dataFallOne,
        dataFallZero]

/-- R78: where decoder `x` stands alike, an event leaves it alike, and it completes in both states or in neither. -/
theorem decEdge_congr (c : Params) (x : Side) (e : EdgeEvent) {s u : State} (h : s.only x = u.only x) :
    (decEdge c x e s).only x = (decEdge c x e u).only x ∧
    (decEdge c x e s).wires.done x = (decEdge c x e u).wires.done x := by
  have hphase : s.regs.phase x = u.regs.phase x := by rw [← s.only_phase, h, State.only_phase]
  have hcnt : s.regs.cnt x = u.regs.cnt x := by rw [← s.only_cnt, h, State.only_cnt]
  constructor
  · rw [decEdge_only c x e s, decEdge_only c x e u, h]
  · rw [decEdge_done, decEdge_done, full, full, hphase, hcnt]

/-! ### The state the decoders of a POLL leave -/

section
variable (c : Params) (ir : Bool) (s : State)

/-- R61, R78: each decoder takes the sampled event from where it stood before the POLL. -/
theorem decoded_side (x : Side) :
    (decoded c ir s).only x = (decEdge c x (sampledEvent c ir s.regs) s).only x ∧
    (decoded c ir s).wires.done x = (decEdge c x (sampledEvent c ir s.regs) s).wires.done x := by
  cases x with
  | a =>
    have hB : ((decoded c ir s).only .a, (decoded c ir s).wires.done .a) = _ :=
      decEdge_frame c .b _ _ (fun u => (u.only .a, u.wires.done .a)) fun _ => rfl
    obtain ⟨hregs, hdone⟩ := Prod.mk.inj hB
    obtain ⟨hregs', hdone'⟩ := decEdge_congr c .a (sampledEvent c ir s.regs) (s := sampled c ir s) (u := s) rfl
    exact ⟨hregs.trans hregs', hdone.trans hdone'⟩
  | b =>
    have hA : (decEdge c .a (sampledEvent c ir s.regs) (sampled c ir s)).only .b = s.only .b :=
      decEdge_frame c .a _ _ (fun u => u.only .b) fun _ => rfl
    exact decEdge_congr c .b _ hA

/-- R61, R63 to R65: the registers after the sampler and both decoders. -/
theorem decoded_regs :
    (decoded c ir s).regs =
      { prev := ir, tcnt := 0, tov := false
        phaseA := (decEdge c .a (sampledEvent c ir s.regs) s).regs.phaseA
        cntA := (decEdge c .a (sampledEvent c ir s.regs) s).regs.cntA
        accAHi := (decEdge c .a (sampledEvent c ir s.regs) s).regs.accAHi
        accALo := (decEdge c .a (sampledEvent c ir s.regs) s).regs.accALo
        phaseB := (decEdge c .b (sampledEvent c ir s.regs) s).regs.phaseB
        cntB := (decEdge c .b (sampledEvent c ir s.regs) s).regs.cntB
        accB := (decEdge c .b (sampledEvent c ir s.regs) s).regs.accB
        key := s.regs.key, act := s.regs.act } := by
  have hA := (decoded_side c ir s .a).1
  have hB := (decoded_side c ir s .b).1
  simp only [State.only, State.mk.injEq, Regs.mk.injEq, true_and, and_true] at hA hB
  have hframe : (decoded c ir s).regs.prev = ir ∧ (decoded c ir s).regs.tcnt = 0 ∧
      (decoded c ir s).regs.tov = false ∧ (decoded c ir s).regs.key = s.regs.key ∧
      (decoded c ir s).regs.act = s.regs.act := by
    simp [decoded, sampled]
  change Regs.mk _ _ _ _ _ _ _ _ _ _ _ _ = _
  simp only [hA, hB, hframe]

@[simp] theorem resolve_event : (resolve c s).wires.event = s.wires.event := by
  obtain ⟨_, _, _, _, h⟩ := resolve_writes c s
  rw [h]

@[simp] theorem resolve_done (x : Side) : (resolve c s).wires.done x = s.wires.done x := by
  obtain ⟨_, _, _, _, h⟩ := resolve_writes c s
  rw [h]
  cases x <;> rfl

end

/-! ### POLL by its edge -/

section
variable {c : Params} {ir : Bool} {s : State}

/-- R62, R124 to R126: the registers of a POLL that sees no edge. -/
theorem poll_regs_of_noEdge (h : ir = s.regs.prev) :
    (poll c ir s).regs =
      { s.regs with
        key := if s.regs.tov = true ∨ c.idleThresh.toNat < s.regs.tcnt.toNat then c.nokey else s.regs.key
        act := if s.regs.tov = true then false else s.regs.act } := by
  rw [poll_noEdge c ir s h, idlechk_eq]
  rfl

/-- R62, R26: the wires of a POLL that sees no edge. -/
theorem poll_wires_of_noEdge (h : ir = s.regs.prev) : (poll c ir s).wires = Wires.quiet c := by
  rw [poll_noEdge c ir s h, idlechk_eq]
  rfl

/-- R61, R123: LATCH decides on the key that RESOLVE left on the wire `k`. -/
theorem poll_regs_of_edge (h : ir ≠ s.regs.prev) :
    (poll c ir s).regs =
      { (decoded c ir s).regs with
        key := if (poll c ir s).wires.k = c.nokey then s.regs.key else (poll c ir s).wires.k
        act := if (poll c ir s).wires.k = c.nokey then s.regs.act else true } := by
  rw [poll_eq_latch h, latch_regs, latch_wires, resolve_regs, decoded_regs]

/-- R63, R64: a POLL on an edge emits the sampled event. -/
theorem poll_event_of_edge (h : ir ≠ s.regs.prev) :
    (poll c ir s).wires.event = some (sampledEvent c ir s.regs) := by
  rw [poll_eq_latch h, latch_wires, resolve_event]
  simp [decoded, sampled, sampledEvent]

/-- R26: the completion wires of a POLL on an edge are the decoders'. -/
theorem poll_done_of_edge (h : ir ≠ s.regs.prev) (x : Side) :
    (poll c ir s).wires.done x = (decEdge c x (sampledEvent c ir s.regs) s).wires.done x := by
  rw [poll_eq_latch h, latch_wires, resolve_done, (decoded_side c ir s x).2]

end

/-- Settles O5, from the idle check on quiet wires. -/
theorem pollWithoutEdgeOnlyChecksIdle : Obligations.PollWithoutEdgeOnlyChecksIdle :=
  fun s => ⟨poll Config.hw s.regs.prev s, rfl, poll_regs_of_noEdge rfl, poll_wires_of_noEdge rfl⟩

/-- Settles O6: the sampled event, both decoders from where they stood, and LATCH on the resolved key. -/
theorem pollOnEdgeSamplesDecodesAndLatches : Obligations.PollOnEdgeSamplesDecodesAndLatches := by
  intro s
  have h : (!s.regs.prev) ≠ s.regs.prev := Bool.not_ne_self _
  refine ⟨poll Config.hw (!s.regs.prev) s, sampledEvent Config.hw (!s.regs.prev) s.regs, rfl, rfl, ?_,
    poll_event_of_edge h, ?_, poll_done_of_edge h .a, poll_done_of_edge h .b⟩
  · simp [edgeSeen]
  · rw [poll_regs_of_edge h, decoded_regs]
    rfl

end Sys2Proof.Machine
end

section
/-! PROOFS. The edge events of a run (spec/40_sampler.md R68, R70): their levels alternate, and the duration of one is
the number of ticks since the one before. -/

namespace Sys2Proof.Machine

open Sys2Proof.Safety

/-! ### What one operation of the block does to PREV and the event -/

@[simp] theorem latch_inputs (c : Params) (s : State) : (latch c s).inputs = s.inputs := by
  obtain ⟨-, h⟩ | ⟨-, h⟩ := latch_cases c s <;> rw [h]

@[simp] theorem poll_inputs (c : Params) (ir : Bool) (s : State) : (poll c ir s).inputs = s.inputs := by
  by_cases h : ir = s.regs.prev
  · rw [poll_noEdge c ir s h, idlechk_eq]
    rfl
  · simp [poll_eq_latch h, decoded, sampled]

/-- R68 for one operation: it emits nothing and holds PREV, or emits an event of the complement of PREV, which becomes
PREV. -/
def KeepsOrFlips (s t : State) : Prop :=
  (t.wires.event = none ∧ t.regs.prev = s.regs.prev) ∨
  ∃ e, t.wires.event = some e ∧ e.level = (!s.regs.prev) ∧ t.regs.prev = (!s.regs.prev)

theorem poll_keepsOrFlips (c : Params) (ir : Bool) (s : State) : KeepsOrFlips s (poll c ir s) := by
  by_cases h : ir = s.regs.prev
  · exact .inl ⟨by rw [poll_wires_of_noEdge h]; rfl, by rw [poll_prev, h]⟩
  · have hir : ir = !s.regs.prev := Bool.eq_not.mpr h
    exact .inr ⟨_, poll_event_of_edge h, hir, by rw [poll_prev, hir]⟩

/-- R68: every operation of the block but RESET keeps or flips PREV, and leaves the pending choices alone. -/
theorem exec_keepsOrFlips {i : Instr} {s t : State} (hi : IsBlockOp i = true) (hr : i ≠ .reset)
    (ht : exec i s = .next t) : KeepsOrFlips s t ∧ t.inputs = s.inputs := by
  cases i <;> cases hi <;> cases ht
  case reset => exact absurd rfl hr
  case nop => exact ⟨.inl ⟨rfl, rfl⟩, rfl⟩
  case tick => exact ⟨.inl ⟨rfl, rfl⟩, rfl⟩
  case poll ir => exact ⟨poll_keepsOrFlips _ ir s, poll_inputs _ ir s⟩
  case tickpoll ir => exact ⟨poll_keepsOrFlips _ ir (tick Config.hw s), poll_inputs _ ir _⟩

/-- R68: a step on a schedule of the block without RESET keeps or flips PREV, and leaves such a schedule. -/
theorem step_keepsOrFlips {s t : State} (hb : BlockSchedule s) (hn : NoReset s) (ht : step s = .next t) :
    KeepsOrFlips s t ∧ BlockSchedule t ∧ NoReset t := by
  obtain ⟨-, ht⟩ | ⟨w, rest, i, hin, hd, ht⟩ := step_cases ht
  · obtain ⟨hkf, hin⟩ := exec_keepsOrFlips rfl (by simp) ht
    exact ⟨hkf, by simpa [BlockSchedule, hin] using hb, by simpa [NoReset, hin] using hn⟩
  · simp only [BlockSchedule, NoReset, hin, List.forall_mem_cons] at hb hn
    have hi : i ≠ .reset := fun h => hn.1 (h ▸ hd)
    obtain ⟨hkf, hin⟩ := exec_keepsOrFlips (isBlockOp_of_blockLevel hb.1 hd) hi ht
    exact ⟨hkf, by simpa [BlockSchedule, hin] using hb.2, by simpa [NoReset, hin] using hn.2⟩

/-- Settles O53, by induction on the steps. -/
theorem edgeEventsAlternate : Obligations.EdgeEventsAlternate := by
  intro n
  induction n with
  | zero => exact fun _ _ _ => trivial
  | succ n ih =>
    intro s hb hn
    cases ht : step s with
    | fault r => simp [events, ht, Alternates]
    | refused r => simp [events, ht, Alternates]
    | next t =>
      obtain ⟨hkf, hbt, hnt⟩ := step_keepsOrFlips hb hn ht
      have hrest := ih t hbt hnt
      obtain ⟨he, hp⟩ | ⟨e, he, hl, hp⟩ := hkf
      · simpa [events, ht, he, hp] using hrest
      · simpa [events, ht, he, hp, Alternates, hl] using hrest

/-! ### The counter as the number of ticks since it was cleared -/

/-- R66, R70: TCNT and TOV as `n` TICKs after both were 0 leave them. -/
structure Counted (n : Nat) (r : Regs) : Prop where
  tcnt : r.tcnt = BitVec.ofNat 16 n
  tov : r.tov = decide (65536 ≤ n)

/-- R66: one TICK more. -/
theorem counted_tick {n : Nat} {s : State} (c : Params) (h : Counted n s.regs) : Counted (n + 1) (tick c s).regs := by
  have hn : s.regs.tcnt.toNat = n % 65536 := by rw [h.tcnt]; exact BitVec.toNat_ofNat n 16
  constructor
  · rw [tick_regs, tcntNext_eq_ofNat, hn]
    exact BitVec.eq_of_toNat_eq (by simp)
  · rw [tick_regs, tovNext_eq_ite, hn, h.tov]
    rw [Bool.eq_iff_iff]
    simp
    omega

/-- R70: the duration of an edge event sampled after `n` TICKs. -/
theorem sampledEvent_of_counted {n : Nat} {r : Regs} (h : Counted n r) (ir : Bool) :
    sampledEvent Config.hw ir r = ⟨ir, if n < 65536 then BitVec.ofNat 16 n else 0xFFFF⟩ := by
  by_cases hn : n < 65536
  · simp [sampledEvent, h.tov, h.tcnt, hn]
  · simp [sampledEvent, h.tov, hn, Nat.le_of_not_lt hn]

/-- R62: a POLL that sees no edge leaves the count alone. -/
theorem counted_poll {n : Nat} {s : State} (c : Params) (h : Counted n s.regs) :
    Counted n (poll c s.regs.prev s).regs := by
  rw [poll_regs_of_noEdge rfl]
  exact ⟨h.tcnt, h.tov⟩

/-- R70: a step on a choice that sees no edge holds PREV and counts its TICKs. -/
theorem step_of_seesNoEdge {n : Nat} {s : State} {w : Selector} {rest : List Selector} (hs : s.inputs = w :: rest)
    (hw : SeesNoEdge s.regs.prev w) (h : Counted n s.regs) :
    ∃ t, step s = .next t ∧ t.inputs = rest ∧ t.regs.prev = s.regs.prev ∧ Counted (n + ticksIn w) t.regs := by
  obtain hd | hd | hd | hd := hw <;> rw [step_of_decode_ok hs hd, ticksIn, hd]
  · exact ⟨_, rfl, rfl, rfl, h⟩
  · exact ⟨_, rfl, rfl, rfl, counted_tick _ h⟩
  · exact ⟨_, rfl, poll_inputs _ _ _, poll_prev _ _ _, counted_poll _ h⟩
  · exact ⟨_, rfl, poll_inputs _ _ _, poll_prev _ _ _, counted_poll _ (counted_tick _ h)⟩

/-- R70: a run over choices that see no edge holds PREV and counts the TICKs in them. -/
theorem run_of_seesNoEdge {n : Nat} {s : State} {before rest : List Selector} (hs : s.inputs = before ++ rest)
    (hb : ∀ w ∈ before, SeesNoEdge s.regs.prev w) (h : Counted n s.regs) :
    ∃ t, (∀ k, core.run (before.length + k) s = core.run k t) ∧ t.inputs = rest ∧ t.regs.prev = s.regs.prev ∧
      Counted (n + tickCount before) t.regs := by
  induction before generalizing n s with
  | nil => exact ⟨s, fun k => by rw [List.length_nil, Nat.zero_add], hs, rfl, h⟩
  | cons w ws ih =>
    rw [List.forall_mem_cons] at hb
    obtain ⟨u, hu, hin, hp, hc⟩ := step_of_seesNoEdge hs hb.1 h
    obtain ⟨t, ht, hint, hpt, hct⟩ := ih hin (hp ▸ hb.2) hc
    refine ⟨t, fun k => ?_, hint, hpt.trans hp, ?_⟩
    · rw [List.length_cons, Nat.succ_add, run_succ_of_step hu, ht]
    · rwa [Nat.add_assoc] at hct

/-- R70: the state right after an edge event of level `l` that lasted `n` TICKs. -/
structure EndsPulse (n : Nat) (l : Bool) (t : State) : Prop where
  event : t.wires.event = some ⟨l, if n < 65536 then BitVec.ofNat 16 n else 0xFFFF⟩
  prev : t.regs.prev = l
  tcnt : t.regs.tcnt = 0
  tov : t.regs.tov = false

/-- R70: a POLL that finds the line changed emits an event that lasts the TICKs counted. -/
theorem poll_endsPulse {n : Nat} {s : State} (h : Counted n s.regs) :
    EndsPulse n (!s.regs.prev) (poll Config.hw (!s.regs.prev) s) := by
  have hir : (!s.regs.prev) ≠ s.regs.prev := Bool.not_ne_self _
  have hregs := poll_regs_of_edge (c := Config.hw) hir
  rw [decoded_regs] at hregs
  exact { event := by rw [poll_event_of_edge hir, sampledEvent_of_counted h]
          prev := poll_prev _ _ s
          tcnt := by rw [hregs]
          tov := by rw [hregs] }

/-- R70: a step on a POLL or TICKPOLL that finds the line changed ends a pulse, its own TICK counted. -/
theorem step_of_pollsAt {n : Nat} {s : State} {w : Selector} {rest : List Selector} (hs : s.inputs = w :: rest)
    (hw : PollsAt (!s.regs.prev) w) (h : Counted n s.regs) :
    ∃ t, step s = .next t ∧ t.inputs = rest ∧ EndsPulse (n + ticksIn w) (!s.regs.prev) t := by
  obtain hd | hd := hw <;> rw [step_of_decode_ok hs hd, ticksIn, hd]
  · exact ⟨_, rfl, poll_inputs _ _ _, poll_endsPulse (s := { s with inputs := rest }) h⟩
  · exact ⟨_, rfl, poll_inputs _ _ _,
      poll_endsPulse (s := tick Config.hw { s with inputs := rest }) (counted_tick _ h)⟩

/-- Settles O54: the counter counts up to the last choice, and that one ends the pulse. -/
theorem durationCountsTheTicksBetweenPolls : Obligations.DurationCountsTheTicksBetweenPolls := by
  intro s before last rest htcnt htov hs hb hl n
  obtain ⟨u, hrun, hin, hprev, hc⟩ := run_of_seesNoEdge hs hb (n := 0) ⟨htcnt, htov⟩
  rw [← hprev] at hl ⊢
  obtain ⟨t, ht, hrest, hpulse⟩ := step_of_pollsAt hin hl hc
  have hn : 0 + tickCount before + ticksIn last = n := by simp [n, tickCount]
  rw [hn] at hpulse
  exact ⟨t, (hrun 1).trans (run_one_of_step ht), hpulse.event, hpulse.prev, hpulse.tcnt, hpulse.tov, hrest⟩

end Sys2Proof.Machine
end

section
/-! PROOFS. What one event leaves in a decoder (spec/41_decoder_common.md R76, R77, R78, R81, R84): its phase by the
window the duration is tested against, its completion by the count, and both from that decoder's registers alone. -/

namespace Sys2Proof.Machine

open Sys2Proof.Safety

/-! ### The phase after an event -/

/-- The phase a decoder is in after an event (R76): a failed window collapses to IDLE, and so does completion. -/
def nextPhase (c : Params) (x : Side) (e : EdgeEvent) (r : Regs) : Phase :=
  match r.phase x, e.level with
  | .idle, false => .header
  | .idle, true => .idle
  | .header, true => if inWin (c.desc x).hl e.dur then .header else .idle
  | .header, false => if inWin (c.desc x).hh e.dur then .data else .idle
  | .data, false => if inWin (c.desc x).dl e.dur || inWin (c.desc x).ds e.dur then .data else .idle
  | .data, true => if full c x r then .idle else .data

/-- R76: the eleven transitions, by the phase each leaves. -/
theorem decEdge_phase (c : Params) (x : Side) (e : EdgeEvent) (s : State) :
    (decEdge c x e s).regs.phase x = nextPhase c x e s.regs := by
  unfold nextPhase
  obtain ⟨hp, hl, h⟩ | ⟨hp, hl, h⟩ | ⟨hp, hl, hw, h⟩ | ⟨hp, hl, hw, h⟩ | ⟨hp, hl, hw, h⟩ | ⟨hp, hl, hw, h⟩ |
    ⟨hp, hl, hw, h⟩ | ⟨hp, hl, hw, hw', h⟩ | ⟨hp, hl, hw, hw', h⟩ | ⟨hp, hl, hw, h⟩ | ⟨hp, hl, hw, h⟩ :=
    decEdge_cases c x e s
  all_goals
    simp [*, full, idleFall, idleRise, hdrRiseOk, hdrRiseBad, hdrFallOk, hdrFallBad, dataFallOne, dataFallZero,
      dataFallBad, dataRiseMore, dataRiseDone]

/-- R72: a duration on or outside the bounds of a window is not in it. -/
theorem inWin_eq_false_of_outside {w : Window} {d : Ticks} (h : d.toNat ≤ w.lo.toNat ∨ w.hi.toNat ≤ d.toNat) :
    inWin w d = false := by
  rw [← Bool.not_eq_true, inWin_iff]
  omega

/-- Settles O28: a tested duration that is in no tested window collapses the decoder, and only DATA's rising edge, which
tests none, completes. -/
theorem durationOutsideTestedWindowsCollapses : Obligations.DurationOutsideTestedWindowsCollapses := by
  intro c x e s out h
  rw [decEdge_phase, decEdge_done]
  obtain ⟨hp, hl, hw⟩ | ⟨hp, hl, hw⟩ | ⟨hp, hl, hs, hd⟩ := h
  · simp [nextPhase, hp, hl, inWin_eq_false_of_outside hw]
  · simp [nextPhase, hp, hl, inWin_eq_false_of_outside hw]
  · simp [nextPhase, hp, hl, inWin_eq_false_of_outside hs, inWin_eq_false_of_outside hd]

/-- R81: no window of this hardware reaches above 989. -/
theorem inWin_eq_false_of_above (x : Side) {d : Ticks} (h : 989 < d.toNat) :
    inWin (Config.hw.desc x).hl d = false ∧ inWin (Config.hw.desc x).hh d = false ∧
    inWin (Config.hw.desc x).ds d = false ∧ inWin (Config.hw.desc x).dl d = false := by
  have hi : (Config.hw.desc x).hl.hi.toNat ≤ 990 ∧ (Config.hw.desc x).hh.hi.toNat ≤ 990 ∧
      (Config.hw.desc x).ds.hi.toNat ≤ 990 ∧ (Config.hw.desc x).dl.hi.toNat ≤ 990 := by
    cases x <;> decide
  refine ⟨?_, ?_, ?_, ?_⟩ <;> exact inWin_eq_false_of_outside (.inr (by omega))

/-- Settles O29: above 989 every window test fails; what tests no window goes on. -/
theorem saturatedDurationFailsEveryWindow : Obligations.SaturatedDurationFailsEveryWindow := by
  intro x e s h
  obtain ⟨hhl, hhh, hds, hdl⟩ := inWin_eq_false_of_above x h
  simp only [decEdge_phase, decEdge_done, nextPhase]
  refine ⟨fun hp hl => ?_, fun hp hl => ?_, fun hp => ?_, fun hp hl => ?_, fun hp hl => ?_⟩
  · simp only [hp, hl]
  · simp only [hp, hl]
  · cases e.level <;> simp [hp, hhl, hhh]
  · simp [hp, hl, hds, hdl]
  · simp [hp, hl, full]

/-! ### Completion -/

/-- R77, R96, R111: the one transition that completes. -/
theorem decEdge_of_done {c : Params} {x : Side} {e : EdgeEvent} {s : State}
    (h : (decEdge c x e s).wires.done x = true) : decEdge c x e s = dataRiseDone x s := by
  simp only [decEdge_done, Bool.and_eq_true, beq_iff_eq] at h
  obtain ⟨⟨hp, hl⟩, hf⟩ := h
  simp only [decEdge, hp, hl, hf, if_true]

/-- R77: completion writes PHASE and the wire, so the code stands. -/
theorem dataRiseDone_code (x : Side) (s : State) : codeOf x (dataRiseDone x s).regs = codeOf x s.regs := by
  cases x <;> rfl

/-- Settles O30: where a decoder completes, and what the completing transition leaves. -/
theorem codeCompleteOnlyAtTheTargetCount : Obligations.CodeCompleteOnlyAtTheTargetCount := by
  refine fun c x e s => ⟨by simp [decEdge_done, full, and_assoc], fun h => ?_⟩
  rw [decEdge_of_done h]
  exact ⟨by simp [dataRiseDone], dataRiseDone_code x s⟩

/-! ### A state is one decoder and the rest -/

/-- `s` with decoder `x`'s registers and wire as they are in `t`. -/
def State.withSideOf (s : State) (x : Side) (t : State) : State :=
  match x with
  | .a =>
    { s with
      regs := { s.regs with
        phaseA := t.regs.phaseA, cntA := t.regs.cntA, accAHi := t.regs.accAHi, accALo := t.regs.accALo }
      wires := { s.wires with doneA := t.wires.doneA } }
  | .b =>
    { s with
      regs := { s.regs with phaseB := t.regs.phaseB, cntB := t.regs.cntB, accB := t.regs.accB }
      wires := { s.wires with doneB := t.wires.doneB } }

@[simp] theorem State.withSideOf_self (s : State) (x : Side) : s.withSideOf x s = s := by cases x <;> rfl
@[simp] theorem State.without_withSideOf (s : State) (x : Side) (t : State) :
    (s.without x).withSideOf x t = s.withSideOf x t := by
  cases x <;> rfl

/-- Two states that agree outside decoder `x` differ in decoder `x` alone. -/
theorem eq_withSideOf {x : Side} {s t : State} (h : t.without x = s.without x) : t = s.withSideOf x t := by
  rw [← State.without_withSideOf, ← h, State.without_withSideOf, State.withSideOf_self]

/-- A state is settled by decoder `x`'s registers, its wire, and everything else. -/
theorem State.eq_of_side {x : Side} {s t : State} (hrest : t.without x = s.without x) (hregs : t.only x = s.only x)
    (hdone : t.wires.done x = s.wires.done x) : t = s := by
  have hside : s.withSideOf x t = s.withSideOf x s := by
    cases x
    all_goals
      simp only [State.only, State.mk.injEq, Regs.mk.injEq, true_and, and_true] at hregs
      simp only [Wires.done_a, Wires.done_b] at hdone
      simp only [State.withSideOf, hregs, hdone]
  rw [eq_withSideOf hrest, hside, State.withSideOf_self]

/-- R33: the code shown is a view of the decoder's own registers. -/
theorem codeOf_only (x : Side) (s : State) : codeOf x (s.only x).regs = codeOf x s.regs := by
  cases x <;> rfl

/-- A concatenation gives both its parts back. -/
theorem eq_and_eq_of_append_eq {n m : Nat} {hi hi' : BitVec n} {lo lo' : BitVec m} (h : hi ++ lo = hi' ++ lo') :
    hi = hi' ∧ lo = lo' :=
  ⟨by simpa only [BitVec.extractLsb'_append_eq_left] using congrArg (BitVec.extractLsb' m n) h,
    by simpa only [BitVec.setWidth_append_eq_right] using congrArg (BitVec.setWidth m) h⟩

/-- R33, R98, R113: phase, count and code settle a decoder's registers. -/
theorem only_eq_of_code {x : Side} {s u : State} (hp : s.regs.phase x = u.regs.phase x)
    (hn : s.regs.cnt x = u.regs.cnt x) (hc : codeOf x s.regs = codeOf x u.regs) : s.only x = u.only x := by
  cases x with
  | a =>
    obtain ⟨hhi, hlo⟩ := eq_and_eq_of_append_eq hc
    simp only [Regs.phase_a, Regs.cnt_a] at hp hn
    simp only [State.only, hp, hn, hhi, hlo]
  | b =>
    have hacc : s.regs.accB = u.regs.accB := by
      simpa [codeOf, codeB] using congrArg (BitVec.setWidth 32) hc
    simp only [Regs.phase_b, Regs.cnt_b] at hp hn
    simp only [State.only, hp, hn, hacc]

/-- Settles O32: a transition leaves the rest of the state alone, and reads the decoder's registers only. -/
theorem decodersAreIndependent : Obligations.DecodersAreIndependent := by
  refine ⟨fun c e s => ⟨⟨_, _, _, _, _, eq_withSideOf (decEdge_without c .a e s)⟩,
    ⟨_, _, _, _, eq_withSideOf (decEdge_without c .b e s)⟩⟩, fun c x e s u hp hn hc => ?_⟩
  obtain ⟨hregs, hdone⟩ := decEdge_congr c x e (only_eq_of_code hp hn hc)
  refine ⟨?_, ?_, ?_, hdone⟩
  · rw [← State.only_phase, hregs, State.only_phase]
  · rw [← State.only_cnt, hregs, State.only_cnt]
  · rw [← codeOf_only, hregs, codeOf_only]

end Sys2Proof.Machine
end


section
/-! PROOFS. Two runs side by side (spec/41_decoder_common.md R78): what KEY and ACT hold never comes back into the
sampler, the decoders or RESOLVE. -/

namespace Sys2Proof.Machine

/-! ### From a step to a run -/

/-- A run that goes on past its first step took that step. -/
theorem step_of_run_succ {n : Nat} {s t : State} (h : core.run (n + 1) s = .next t) :
    ∃ u, step s = .next u ∧ core.run n u = .next t := by
  have hrun := (Host.Core.run.eq_2 core s n).symm.trans h
  have hcore : core.step s = step s := rfl
  cases hs : step s with
  | next u => exact ⟨u, rfl, (run_succ_of_step hs n).symm.trans h⟩
  | fault r => cases r
  | refused r =>
    rw [hcore, hs] at hrun
    cases hrun

/-- A relation that every step carries along is carried along by every run. -/
theorem run_of_step_relation {R : State → State → Prop}
    (hR : ∀ {s u t}, R s u → step s = .next t → ∃ v, step u = .next v ∧ R t v) {n : Nat} {s u t : State}
    (h : R s u) (ht : core.run n s = .next t) : ∃ v, core.run n u = .next v ∧ R t v := by
  induction n generalizing s u with
  | zero =>
    cases ht
    exact ⟨u, rfl, h⟩
  | succ n ih =>
    obtain ⟨s', hs, ht⟩ := step_of_run_succ ht
    obtain ⟨u', hu, h'⟩ := hR h hs
    rw [run_succ_of_step hu]
    exact ih h' ht

/-! ### What does not read KEY and ACT -/

/-- `s` with KEY and ACT replaced. -/
def State.withLatch (s : State) (k : KeyCode) (a : Bool) : State :=
  { s with regs := { s.regs with key := k, act := a } }

section
variable (c : Params) (s : State) (k : KeyCode) (a : Bool)

@[simp] theorem State.withLatch_without (x : Side) : (s.withLatch k a).without x = (s.without x).withLatch k a := by
  cases x <;> rfl
@[simp] theorem State.withLatch_only (x : Side) : (s.withLatch k a).only x = s.only x := by cases x <;> rfl
@[simp] theorem State.withLatch_wires : (s.withLatch k a).wires = s.wires := rfl
@[simp] theorem lookupCode_withLatch (x : Side) : lookupCode x (s.withLatch k a).regs = lookupCode x s.regs := by
  cases x <;> rfl

theorem append_withLatch (x : Side) (b : Bool) : (s.withLatch k a).append c x b = (s.append c x b).withLatch k a :=
  State.eq_of_side (x := x) (by simp) (by simp) (by simp)

/-- R78: a decoder's transition neither reads nor writes KEY and ACT. -/
theorem decEdge_withLatch (x : Side) (e : EdgeEvent) :
    decEdge c x e (s.withLatch k a) = (decEdge c x e s).withLatch k a := by
  obtain ⟨hregs, hdone⟩ := decEdge_congr c x e (s.withLatch_only k a x)
  exact State.eq_of_side (x := x) (by simp) (by simpa using hregs) hdone

/-- R61, R78: neither the sampler nor a decoder reads or writes KEY and ACT. -/
theorem decoded_withLatch (ir : Bool) : decoded c ir (s.withLatch k a) = (decoded c ir s).withLatch k a := by
  have hsampled : sampled c ir (s.withLatch k a) = (sampled c ir s).withLatch k a := rfl
  simp only [decoded, hsampled, decEdge_withLatch]
  rfl

theorem resolveA_withLatch : resolveA c (s.withLatch k a) = (resolveA c s).withLatch k a := by
  simp only [resolveA, State.withLatch_wires, lookupCode_withLatch]
  cases s.wires.doneA with
  | false => rfl
  | true => cases romRead c .a (lookupCode .a s.regs) <;> rfl

theorem resolveB_withLatch : resolveB c (s.withLatch k a) = (resolveB c s).withLatch k a := by
  simp only [resolveB, State.withLatch_wires, lookupCode_withLatch]
  cases s.wires.aWon with
  | true => rfl
  | false =>
    cases s.wires.doneB with
    | false => rfl
    | true => cases romRead c .b (lookupCode .b s.regs) <;> rfl

/-- R115: RESOLVE reads completions and codes. -/
theorem resolve_withLatch : resolve c (s.withLatch k a) = (resolve c s).withLatch k a := by
  have hbegin : resolveBegin c (s.withLatch k a) = (resolveBegin c s).withLatch k a := rfl
  rw [resolve, hbegin, resolveA_withLatch, resolveB_withLatch, resolve]

end

/-! ### What writes KEY and ACT -/

/-- `u` is `s` but for KEY and ACT. -/
def DiffersInLatch (s u : State) : Prop :=
  ∃ k a, u = s.withLatch k a

section
variable (c : Params) (s : State) (k : KeyCode) (a : Bool)

theorem latch_differsInLatch : DiffersInLatch (latch c s) (latch c (s.withLatch k a)) := by
  cases h : kvalid c s.wires
  all_goals
    simp only [latch, State.withLatch_wires, h, Bool.false_eq_true, if_false, if_true]
    exact ⟨_, _, rfl⟩

theorem idlechk_differsInLatch : DiffersInLatch (idlechk c s) (idlechk c (s.withLatch k a)) := by
  rw [idlechk_eq, idlechk_eq]
  exact ⟨_, _, rfl⟩

theorem poll_differsInLatch (ir : Bool) : DiffersInLatch (poll c ir s) (poll c ir (s.withLatch k a)) := by
  by_cases h : ir = s.regs.prev
  · rw [poll_noEdge c ir s h, poll_noEdge c ir (s.withLatch k a) h]
    exact idlechk_differsInLatch c (s.quiet c) k a
  · rw [poll_eq_latch h, poll_eq_latch (s := s.withLatch k a) h, decoded_withLatch, resolve_withLatch]
    exact latch_differsInLatch c _ k a

end

/-- R78: an operation on states that differ in KEY and ACT only leaves such states. -/
theorem exec_differsInLatch {i : Instr} {s u t : State} (h : DiffersInLatch s u) (ht : exec i s = .next t) :
    ∃ v, exec i u = .next v ∧ DiffersInLatch t v := by
  obtain ⟨k, a, rfl⟩ := h
  cases i <;> cases ht <;> refine ⟨_, rfl, ?_⟩
  case poll ir => exact poll_differsInLatch _ s k a ir
  case tickpoll ir => exact poll_differsInLatch _ (tick Config.hw s) k a ir
  case aDataFallOne | aDataFallZero | aDataFallBad | bDataFallOne | bDataFallZero | bDataFallBad =>
    simp only [dataFallOne, dataFallZero, dataFallBad, append_withLatch]
    exact ⟨k, a, rfl⟩
  all_goals exact ⟨_, _, rfl⟩

/-- R78: so does a step. -/
theorem step_differsInLatch {s u t : State} (h : DiffersInLatch s u) (ht : step s = .next t) :
    ∃ v, step u = .next v ∧ DiffersInLatch t v := by
  obtain ⟨k, a, hu⟩ := id h
  have hin : u.inputs = s.inputs := by rw [hu]; rfl
  obtain ⟨hs, ht⟩ | ⟨w, rest, i, hs, hd, ht⟩ := step_cases ht
  · rw [step_of_nothing_pending (hin.trans hs)]
    exact exec_differsInLatch h ht
  · rw [step_of_decode_ok (hin.trans hs) hd]
    exact exec_differsInLatch ⟨k, a, by rw [hu]; rfl⟩ ht

/-- Settles O52, from the step. -/
theorem latchNeverInfluencesTheDecoders : Obligations.LatchNeverInfluencesTheDecoders := by
  intro n s t k a ht
  obtain ⟨v, hv, k', a', rfl⟩ := run_of_step_relation step_differsInLatch ⟨k, a, rfl⟩ ht
  exact ⟨k', a', hv⟩

end Sys2Proof.Machine
end


section
/-! PROOFS. What the edges of a completed code were (spec/41_decoder_common.md R80): on alternating edges a decoder
outside IDLE has just received the beginning of a valid frame, so it completes at the end of one only. -/

namespace Sys2Proof.Machine

open Sys2Proof.Safety

/-! ### Frames and alternation -/

theorem dataEdges_append_singleton (bits : List (Ticks × Ticks)) (p : Ticks × Ticks) :
    dataEdges (bits ++ [p]) = dataEdges bits ++ [⟨true, p.1⟩, ⟨false, p.2⟩] := by
  simp [dataEdges]

/-- R80: the edges of a frame up to the end of its header. -/
def headerEdges (g low high : Ticks) : List EdgeEvent :=
  [⟨false, g⟩, ⟨true, low⟩, ⟨false, high⟩]

theorem frameEdges_eq (g low high : Ticks) (bits : List (Ticks × Ticks)) (close : Ticks) :
    frameEdges g low high bits close = headerEdges g low high ++ dataEdges bits ++ [⟨true, close⟩] := rfl

/-- R72, R80: a header and data bits inside their windows; how many bits is left open. -/
structure ValidPart (c : Params) (x : Side) (low high : Ticks) (bits : List (Ticks × Ticks)) : Prop where
  headerLow : inWin (c.desc x).hl low = true
  headerHigh : inWin (c.desc x).hh high = true
  data : ∀ p ∈ bits, inWin (c.desc x).dl p.2 = true ∨ inWin (c.desc x).ds p.2 = true

/-- One more pulse and gap, the gap inside a data window. -/
theorem ValidPart.snoc {c : Params} {x : Side} {low high : Ticks} {bits : List (Ticks × Ticks)} {p : Ticks × Ticks}
    (h : ValidPart c x low high bits) (hp : inWin (c.desc x).dl p.2 = true ∨ inWin (c.desc x).ds p.2 = true) :
    ValidPart c x low high (bits ++ [p]) :=
  { h with data := List.forall_mem_append.mpr ⟨h.data, List.forall_mem_singleton.mpr hp⟩ }

/-! ### What the edges received say of a decoder that is not in IDLE -/

/-- Edges `es` have been received, the next one is of level `l`, and decoder `x` stands where these edges take it:
after the falling edge that starts a frame, after its header's low pulse, in a gap of its data, or in a pulse there. -/
inductive Explains (c : Params) (x : Side) : Bool → List EdgeEvent → Regs → Prop where
  | idle {l : Bool} {es : List EdgeEvent} {r : Regs} (phase : r.phase x = .idle) : Explains c x l es r
  | start {r : Regs} (before : List EdgeEvent) (g : Ticks) (phase : r.phase x = .header) (cnt : r.cnt x = 0) :
    Explains c x true (before ++ [⟨false, g⟩]) r
  | low {r : Regs} (before : List EdgeEvent) (g low : Ticks) (phase : r.phase x = .header) (cnt : r.cnt x = 0)
    (valid : inWin (c.desc x).hl low = true) : Explains c x false (before ++ [⟨false, g⟩, ⟨true, low⟩]) r
  | gap {r : Regs} (before : List EdgeEvent) (g low high : Ticks) (bits : List (Ticks × Ticks))
    (phase : r.phase x = .data) (cnt : r.cnt x = BitVec.ofNat 8 bits.length)
    (room : bits.length ≤ (c.desc x).width.toNat) (valid : ValidPart c x low high bits) :
    Explains c x true (before ++ headerEdges g low high ++ dataEdges bits) r
  | pulse {r : Regs} (before : List EdgeEvent) (g low high : Ticks) (bits : List (Ticks × Ticks)) (d : Ticks)
    (phase : r.phase x = .data) (cnt : r.cnt x = BitVec.ofNat 8 bits.length)
    (room : bits.length < (c.desc x).width.toNat) (valid : ValidPart c x low high bits) :
    Explains c x false (before ++ headerEdges g low high ++ dataEdges bits ++ [⟨true, d⟩]) r

section
variable {c : Params} {x : Side} {es : List EdgeEvent} {e : EdgeEvent} {s : State}

/-- A count short of 256 bits is the number it stands for. -/
theorem count_eq_width_iff {v w : Count} {n : Nat} (hv : v = BitVec.ofNat 8 n) (hn : n ≤ w.toNat) :
    v = w ↔ n = w.toNat := by
  have hw := Config.count_lt w
  rw [hv, ← BitVec.toNat_inj, BitVec.toNat_ofNat, Nat.mod_eq_of_lt (by simpa using by omega)]

/-- R80: the edge after edges that explain a decoder explains it too. -/
theorem explains_decEdge (h : Explains c x e.level es s.regs) :
    Explains c x (!e.level) (es ++ [e]) (decEdge c x e s).regs := by
  obtain ⟨level, dur⟩ := e
  cases hp : (decEdge c x ⟨level, dur⟩ s).regs.phase x with
  | idle => exact .idle hp
  | header =>
    obtain ⟨hl, hn⟩ | ⟨hl, hw, hq, hn⟩ := decEdge_header hp <;> cases hl
    · exact .start es dur hp hn
    · cases h with
      | start before g phase cnt => simpa using Explains.low before g dur hp (hn.trans cnt) hw
      | idle phase | gap _ _ _ _ _ phase => simp [phase] at hq
  | data =>
    cases level with
    | true =>
      obtain ⟨hq, hfull, hn⟩ := decEdge_data_of_rise rfl hp
      cases h with
      | gap before g low high bits phase cnt room valid =>
        have hlen := mt (count_eq_width_iff cnt room).mpr hfull
        exact .pulse before g low high bits dur hp (hn.trans cnt) (by omega) valid
      | idle phase | start _ _ phase => simp [phase] at hq
    | false =>
      obtain ⟨hq, hw, hn⟩ | ⟨hq, hw, hn⟩ := decEdge_data_of_fall rfl hp
      · cases h with
        | low before g low phase cnt valid =>
          simpa [headerEdges, dataEdges] using
            Explains.gap before g low dur [] hp (hn.trans cnt) (Nat.zero_le _) ⟨valid, hw, by simp⟩
        | idle phase | pulse _ _ _ _ _ _ phase => simp [phase] at hq
      · cases h with
        | pulse before g low high bits d phase cnt room valid =>
          have hcnt : (decEdge c x ⟨false, dur⟩ s).regs.cnt x = BitVec.ofNat 8 (bits ++ [(d, dur)]).length := by
            rw [hn, cnt, List.length_append, BitVec.ofNat_add]
            rfl
          simpa [dataEdges_append_singleton] using
            Explains.gap before g low high _ hp hcnt (by simpa using room) (valid.snoc (p := (d, dur)) hw)
        | idle phase | low _ _ _ phase => simp [phase] at hq

/-- R77, R80: a completing edge closes a valid frame. -/
theorem validFrame_of_done (h : Explains c x e.level es s.regs) (hd : (decEdge c x e s).wires.done x = true) :
    ∃ before g low high bits close,
      es ++ [e] = before ++ frameEdges g low high bits close ∧ ValidFrame c x low high bits := by
  obtain ⟨level, dur⟩ := e
  simp only [decEdge_done, Bool.and_eq_true, beq_iff_eq, full] at hd
  obtain ⟨⟨hp, rfl⟩, hf⟩ := hd
  cases h with
  | gap before g low high bits phase cnt room valid =>
    refine ⟨before, g, low, high, bits, dur, ?_, valid.headerLow, valid.headerHigh,
      (count_eq_width_iff cnt room).mp hf, valid.data⟩
    rw [frameEdges_eq]
    simp only [List.append_assoc]
  | idle phase | start _ _ phase => simp [phase] at hp

end

/-- R80: over a whole run. -/
theorem validFrame_of_decRun {c : Params} {x : Side} {l : Bool} {seen es : List EdgeEvent} {s : State}
    (h : Explains c x l seen s.regs) (hne : es ≠ []) (ha : Alternates l es)
    (hd : (decRun c x es s).wires.done x = true) :
    ∃ before g low high bits close,
      seen ++ es = before ++ frameEdges g low high bits close ∧ ValidFrame c x low high bits := by
  induction es generalizing l seen s with
  | nil => exact absurd rfl hne
  | cons e es ih =>
    obtain ⟨rfl, ha⟩ := ha
    cases es with
    | nil => exact validFrame_of_done h hd
    | cons e' es => simpa using ih (explains_decEdge h) (by simp) ha hd

/-- Settles O34: nothing has to be explained of a decoder that starts in IDLE. -/
theorem codeCompleteOnlyAfterAValidFrame : Obligations.CodeCompleteOnlyAfterAValidFrame :=
  fun _ _ _ _ hs hne ha hd => validFrame_of_decRun (seen := []) (.idle hs) hne ha hd

end Sys2Proof.Machine
end


section
/-! PROOFS. What a valid frame does to the decoder it is for (spec/41_decoder_common.md R74, R80): its bits go in one
after the other, and its closing edge completes their code. -/

namespace Sys2Proof.Machine

open Sys2Proof.Safety

/-! ### Bits shifted in one after the other -/

/-- The last `n` of the bits `bs`, the latest lowest, above them zeros: what shifting them into a cleared accumulator of
`n` bits leaves (R74). -/
def packed (n : Nat) (bs : List Bool) : BitVec n :=
  bs.foldl shiftIn 0

@[simp] theorem packed_nil (n : Nat) : packed n [] = 0 := rfl

@[simp] theorem packed_snoc (n : Nat) (bs : List Bool) (b : Bool) :
    packed n (bs ++ [b]) = shiftIn (packed n bs) b := by
  simp [packed]

theorem getLsbD_shiftIn {n : Nat} (v : BitVec n) (b : Bool) {j : Nat} (hj : j < n) :
    (shiftIn v b).getLsbD j = if j = 0 then b else v.getLsbD (j - 1) := by
  cases j with
  | zero => simp [shiftIn, hj]
  | succ j => simp [shiftIn, hj, BitVec.getLsbD_eq_getElem (Nat.lt_of_succ_lt hj)]

theorem getLsbD_packed {n : Nat} (bs : List Bool) {j : Nat} (hj : j < n) :
    (packed n bs).getLsbD j = bs.reverse[j]?.getD false := by
  induction bs using List.reverseRecOn generalizing j with
  | nil => simp
  | append_singleton bs b ih =>
    rw [packed_snoc, getLsbD_shiftIn _ _ hj, List.reverse_concat]
    cases j with
    | zero => simp
    | succ j => simpa using ih (Nat.lt_of_succ_lt hj)

/-- Bits split over two accumulators, the lower one full, are the bits in one. -/
theorem packed_append_packed {n m : Nat} (as bs : List Bool) (hm : bs.length = m) :
    packed n as ++ packed m bs = packed (n + m) (as ++ bs) := by
  apply BitVec.eq_of_getLsbD_eq
  intro j hj
  rw [BitVec.getLsbD_append, getLsbD_packed _ hj, List.reverse_append, List.getElem?_append, List.length_reverse, hm]
  split
  · next h => rw [getLsbD_packed _ h]
  · rw [getLsbD_packed _ (by omega)]

/-- R74: bit `length - 1 - i` is the `(i + 1)`-th bit shifted in. -/
theorem getLsbD_packed_of_lt {n : Nat} {bs : List Bool} (hn : bs.length ≤ n) {i : Nat} (hi : i < bs.length) :
    (packed n bs).getLsbD (bs.length - 1 - i) = bs[i] := by
  rw [getLsbD_packed bs (by omega), List.getElem?_reverse (by omega),
    show bs.length - 1 - (bs.length - 1 - i) = i by omega, List.getElem?_eq_getElem hi, Option.getD_some]

/-! ### The bits a decoder holds -/

/-- Decoder `x`'s accumulators hold the bits `bs`: decoder A's first 16 in its high accumulator (R74, R85, R100). -/
def HoldsBits : Side → List Bool → Regs → Prop
  | .a, bs, r => r.accAHi = packed 16 (bs.take 16) ∧ r.accALo = packed 32 (bs.drop 16)
  | .b, bs, r => r.accB = packed 32 bs

/-- Decoder `x` is in phase `p`, has received the bits `bs` of a frame, and has counted them. -/
structure Received (x : Side) (p : Phase) (bs : List Bool) (r : Regs) : Prop where
  phase : r.phase x = p
  cnt : r.cnt x = BitVec.ofNat 8 bs.length
  bits : HoldsBits x bs r

section
variable {x : Side} {s : State} {p : Phase} {bs : List Bool}

theorem Received.setPhase (h : Received x p bs s.regs) (q : Phase) : Received x q bs (s.setPhase x q).regs where
  phase := s.setPhase_phase x q
  cnt := (s.setPhase_cnt x q).trans h.cnt
  bits := by cases x <;> exact h.bits

/-- R74: an append takes one bit more. -/
theorem Received.append (h : Received x p bs s.regs) (hlt : bs.length < 256) (b : Bool) :
    Received x p (bs ++ [b]) (s.append Config.hw x b).regs where
  phase := (s.append_phase x _ b).trans h.phase
  cnt := by
    rw [s.append_cnt, h.cnt, List.length_append, BitVec.ofNat_add]
    rfl
  bits := by
    cases x with
    | a =>
      obtain ⟨hhi, hlo⟩ := h.bits
      have hcnt : s.regs.cntA.toNat = bs.length := by
        rw [← Regs.cnt_a, h.cnt, BitVec.toNat_ofNat, Config.two_pow_cntW, Nat.mod_eq_of_lt hlt]
      have hsplit : (∃ n, Config.hw.descA.split = some n ∧ s.regs.cntA.toNat < n.toNat) ↔ bs.length < 16 := by
        simp [Config.descA, hcnt]
      rw [State.append_a_regs, HoldsBits]
      simp only [hsplit, hhi, hlo]
      by_cases h16 : bs.length < 16
      · obtain ⟨k, hk⟩ : ∃ k, 16 - bs.length = k + 1 := ⟨15 - bs.length, by omega⟩
        simp [h16, hk, List.take_append, List.drop_append]
      · have hk : 16 - bs.length = 0 := by omega
        simp [h16, hk, List.take_append, List.drop_append]
    | b =>
      rw [State.append_b_regs, HoldsBits, packed_snoc]
      exact congrArg (shiftIn · b) h.bits

end

/-- R98, R113: the code of a complete frame shows its bits, the first on top. -/
theorem Received.getLsbD_codeOf {x : Side} {p : Phase} {bs : List Bool} {r : Regs} (h : Received x p bs r)
    (hlen : bs.length = (Config.hw.desc x).width.toNat) {i : Nat} (hi : i < bs.length) :
    (codeOf x r).getLsbD (bs.length - 1 - i) = bs[i] := by
  cases x with
  | a =>
    replace hlen : bs.length = 48 := hlen
    obtain ⟨hhi, hlo⟩ := h.bits
    have hcode : codeOf .a r = packed 48 bs := by
      rw [codeOf, codeA, hhi, hlo, packed_append_packed _ _ (by simp [hlen]), List.take_append_drop]
    rw [hcode, getLsbD_packed_of_lt hlen.le hi]
  | b =>
    replace hlen : bs.length = 32 := hlen
    have hb : r.accB = packed 32 bs := h.bits
    have hlt : bs.length - 1 - i < 48 := by omega
    rw [codeOf, codeB, hb, BitVec.getLsbD_setWidth, getLsbD_packed_of_lt hlen.le hi, decide_eq_true hlt, Bool.true_and]

/-! ### The edges of a frame -/

/-- R73, R80: the bits of a frame, 1 for a data-long gap. -/
def frameBits (x : Side) (bits : List (Ticks × Ticks)) : List Bool :=
  bits.map fun p => inWin (Config.hw.desc x).dl p.2

@[simp] theorem length_frameBits (x : Side) (bits : List (Ticks × Ticks)) : (frameBits x bits).length = bits.length :=
  List.length_map _

theorem getElem_frameBits (x : Side) (bits : List (Ticks × Ticks)) {i : Nat} (h : i < (frameBits x bits).length) :
    (frameBits x bits)[i] = inWin (Config.hw.desc x).dl (bits[i]'(by simpa using h)).2 :=
  List.getElem_map _

theorem decRun_append (c : Params) (x : Side) (es es' : List EdgeEvent) (s : State) :
    decRun c x (es ++ es') s = decRun c x es' (decRun c x es s) := by
  induction es generalizing s with
  | nil => rfl
  | cons e es ih => exact ih _

section
variable {x : Side} {s : State} {bs : List Bool}

/-- R86, R101: a falling edge in IDLE starts a frame, with no bit received. -/
theorem received_start (h : s.regs.phase x = .idle) (g : Ticks) :
    Received x .header [] (decEdge Config.hw x ⟨false, g⟩ s).regs := by
  have he : decEdge Config.hw x ⟨false, g⟩ s = idleFall x s := by simp [decEdge, h]
  rw [he]
  exact { phase := by simp [idleFall], cnt := by simp [idleFall], bits := by cases x <;> simp [idleFall, HoldsBits] }

/-- R88, R90, R103, R105: a header inside its windows takes the decoder to DATA. -/
theorem received_header (h : Received x .header bs s.regs) {low high : Ticks}
    (hl : inWin (Config.hw.desc x).hl low = true) (hh : inWin (Config.hw.desc x).hh high = true) :
    Received x .data bs (decRun Config.hw x [⟨true, low⟩, ⟨false, high⟩] s).regs := by
  have hlow : decEdge Config.hw x ⟨true, low⟩ s = hdrRiseOk x s := by simp [decEdge, h.phase, hl]
  have hhigh : decEdge Config.hw x ⟨false, high⟩ (hdrRiseOk x s) = hdrFallOk x (hdrRiseOk x s) := by
    simp [decEdge, hdrRiseOk, h.phase, hh]
  have hkept : Received x .header bs (hdrRiseOk x s).regs := by simpa [hdrRiseOk] using h
  rw [decRun, hlow, decRun, hhigh, decRun, hdrFallOk, State.setDone_regs]
  exact hkept.setPhase .data

/-- R92, R93: a gap inside a data window is appended as one bit, 1 where it is long. -/
theorem decEdge_of_valid_gap {c : Params} (h : s.regs.phase x = .data) {d : Ticks}
    (hw : inWin (c.desc x).dl d = true ∨ inWin (c.desc x).ds d = true) :
    decEdge c x ⟨false, d⟩ s = (s.append c x (inWin (c.desc x).dl d)).setDone x false := by
  obtain ⟨hdl, hc⟩ | ⟨hdl, -, hc⟩ | ⟨hdl, hds, -⟩ := classify_cases (c.desc x) d
  · simp [decEdge, h, hc, hdl, dataFallOne]
  · simp [decEdge, h, hc, hdl, dataFallZero]
  · simp [hdl, hds] at hw

/-- R92, R93, R95: a pulse and a gap inside a data window append one bit, 1 for a long gap. -/
theorem received_bit (h : Received x .data bs s.regs) (hlt : bs.length < (Config.hw.desc x).width.toNat)
    {p : Ticks × Ticks} (hw : inWin (Config.hw.desc x).dl p.2 = true ∨ inWin (Config.hw.desc x).ds p.2 = true) :
    Received x .data (bs ++ [inWin (Config.hw.desc x).dl p.2])
      (decRun Config.hw x [⟨true, p.1⟩, ⟨false, p.2⟩] s).regs := by
  have hne : s.regs.cnt x ≠ (Config.hw.desc x).width := mt (count_eq_width_iff h.cnt hlt.le).mp hlt.ne
  have hrise : decEdge Config.hw x ⟨true, p.1⟩ s = dataRiseMore x s := by simp [decEdge, h.phase, full, hne]
  have hmore : Received x .data bs (dataRiseMore x s).regs := by simpa [dataRiseMore] using h
  have hlt256 : bs.length < 256 := by have := Config.count_lt (Config.hw.desc x).width; omega
  rw [decRun, hrise, decRun, decEdge_of_valid_gap hmore.phase hw, decRun, State.setDone_regs]
  exact hmore.append hlt256 _

/-- R80: the data edges of a frame append its bits. -/
theorem received_data {bits : List (Ticks × Ticks)} (h : Received x .data bs s.regs)
    (hlen : bs.length + bits.length ≤ (Config.hw.desc x).width.toNat)
    (hw : ∀ p ∈ bits, inWin (Config.hw.desc x).dl p.2 = true ∨ inWin (Config.hw.desc x).ds p.2 = true) :
    Received x .data (bs ++ frameBits x bits)
      (decRun Config.hw x (dataEdges bits) s).regs := by
  induction bits generalizing bs s with
  | nil => simpa [dataEdges, frameBits, decRun] using h
  | cons p ps ih =>
    rw [List.forall_mem_cons] at hw
    rw [List.length_cons] at hlen
    have hbit := received_bit h (by omega) hw.1
    have hrest := ih hbit (by simp; omega) hw.2
    simpa [dataEdges, frameBits, decRun] using hrest

end

/-- R80: up to its closing edge a valid frame leaves the decoder in DATA with all its bits. -/
theorem received_frame {x : Side} {s : State} (hs : s.regs.phase x = .idle) {g low high : Ticks}
    {bits : List (Ticks × Ticks)} (hv : ValidFrame Config.hw x low high bits) :
    Received x .data (frameBits x bits)
      (decRun Config.hw x (headerEdges g low high ++ dataEdges bits) s).regs := by
  have hdata := received_data (received_header (received_start hs g) hv.headerLow hv.headerHigh)
    (by simp [hv.length]) hv.data
  rw [decRun_append]
  exact hdata

/-- R77, R80: a full decoder completes on a rising edge, whatever its duration. -/
theorem done_of_received {x : Side} {s : State} {bs : List Bool} (h : Received x .data bs s.regs)
    (hlen : bs.length = (Config.hw.desc x).width.toNat) (close : Ticks) :
    (decEdge Config.hw x ⟨true, close⟩ s).wires.done x = true := by
  have hfull := (count_eq_width_iff h.cnt hlen.le).mpr hlen
  simp [decEdge_done, full, h.phase, hfull]

/-! ### No edge before the closing one -/

theorem length_dataEdges (bits : List (Ticks × Ticks)) : (dataEdges bits).length = 2 * bits.length := by
  simp [dataEdges, Nat.mul_comm]

theorem length_frameEdges (g low high : Ticks) (bits : List (Ticks × Ticks)) (close : Ticks) :
    (frameEdges g low high bits close).length = 2 * bits.length + 4 := by
  simp [frameEdges, length_dataEdges]

theorem alternates_dataEdges (bits : List (Ticks × Ticks)) {es : List EdgeEvent} (h : Alternates true es) :
    Alternates true (dataEdges bits ++ es) := by
  induction bits with
  | nil => exact h
  | cons p ps ih => exact ⟨rfl, rfl, ih⟩

theorem alternates_frameEdges (g low high : Ticks) (bits : List (Ticks × Ticks)) (close : Ticks) :
    Alternates false (frameEdges g low high bits close) := by
  have hdata := alternates_dataEdges bits (es := [⟨true, close⟩]) ⟨rfl, trivial⟩
  exact ⟨rfl, rfl, rfl, hdata⟩

theorem alternates_take {l : Bool} {es : List EdgeEvent} (h : Alternates l es) (n : Nat) : Alternates l (es.take n) := by
  induction es generalizing l n with
  | nil => simpa using h
  | cons e es ih =>
    cases n with
    | zero => trivial
    | succ n => exact ⟨h.1, ih h.2 n⟩

theorem take_frameEdges_ne_nil (g low high : Ticks) (bits : List (Ticks × Ticks)) (close : Ticks) {n : Nat}
    (hn : 0 < n) : (frameEdges g low high bits close).take n ≠ [] := by
  rw [← List.length_pos_iff, List.length_take, length_frameEdges]
  omega

/-- R80: a decoder that completes inside a frame's edges has just received a valid frame of its own. -/
theorem validFrame_of_done_take {x : Side} {s : State} (hs : s.regs.phase x = .idle) {g low high close : Ticks}
    {bits : List (Ticks × Ticks)} {n : Nat} (hn : 0 < n)
    (hd : (decRun Config.hw x ((frameEdges g low high bits close).take n) s).wires.done x = true) :
    ∃ before g' low' high' bits' close',
      (frameEdges g low high bits close).take n = before ++ frameEdges g' low' high' bits' close' ∧
      ValidFrame Config.hw x low' high' bits' :=
  codeCompleteOnlyAfterAValidFrame x s false _ hs (take_frameEdges_ne_nil g low high bits close hn)
    (alternates_take (alternates_frameEdges ..) n) hd

/-- R80: a valid frame is too short to hold another one before its closing edge. -/
theorem not_done_before_close {x : Side} {s : State} (hs : s.regs.phase x = .idle) {g low high close : Ticks}
    {bits : List (Ticks × Ticks)} (hv : ValidFrame Config.hw x low high bits) {n : Nat} (hn : 0 < n)
    (hlt : n < (frameEdges g low high bits close).length) :
    (decRun Config.hw x ((frameEdges g low high bits close).take n) s).wires.done x = false := by
  rw [← Bool.not_eq_true]
  intro hd
  obtain ⟨before, _, _, _, _, _, heq, hv'⟩ := validFrame_of_done_take hs hn hd
  have hlen := congrArg List.length heq
  rw [List.length_take, List.length_append, length_frameEdges, length_frameEdges, hv'.length, hv.length] at hlen
  rw [length_frameEdges, hv.length] at hlt
  omega

/-- Settles O33: the frame's bits go in up to the closing edge, which completes them. -/
theorem validFrameCompletesWithItsCode : Obligations.ValidFrameCompletesWithItsCode := by
  intro x s g low high close bits hs hv es t
  have hr := received_frame (g := g) hs hv
  have hlen : (frameBits x bits).length = (Config.hw.desc x).width.toNat := by
    rw [length_frameBits, hv.length]
  have ht : t = decEdge Config.hw x ⟨true, close⟩ (decRun Config.hw x (headerEdges g low high ++ dataEdges bits) s) :=
    decRun_append _ x (headerEdges g low high ++ dataEdges bits) [⟨true, close⟩] s
  have hdone := done_of_received hr hlen close
  have hcode := (codeCompleteOnlyAtTheTargetCount _ x _ _).2 hdone
  rw [ht]
  refine ⟨hdone, hcode.1, fun i hi => ?_, fun n hn hlt => not_done_before_close hs hv hn hlt⟩
  have hbit := hr.getLsbD_codeOf hlen (i := i) (by simpa using hi)
  simp only [getElem_frameBits, length_frameBits] at hbit
  rw [hcode.2, hbit]

end Sys2Proof.Machine
end


section
/-! PROOFS. A whole Protocol A frame through both decoders, RESOLVE and LATCH (spec/41_decoder_common.md R80,
spec/44_resolver_latch.md R115, R123): decoder A completes at the last edge and decoder B nowhere, since its header's
gap is longer than any gap of the frame. -/

namespace Sys2Proof.Machine

open Sys2Proof.Safety

/-! ### One edge event -/

/-- R61, R78: of the two decoders each takes an event from where it stands. -/
theorem decEdge_both_side (c : Params) (x : Side) (e : EdgeEvent) (s : State) :
    (decEdge c .b e (decEdge c .a e s)).only x = (decEdge c x e s).only x ∧
    (decEdge c .b e (decEdge c .a e s)).wires.done x = (decEdge c x e s).wires.done x := by
  cases x with
  | a => exact ⟨decEdge_frame c .b e _ (State.only .a) fun _ => rfl, decEdge_b_doneA c e _⟩
  | b => exact decEdge_congr c .b e (decEdge_frame c .a e s (State.only .b) fun _ => rfl)

/-- The state in which the decoders of an `EV` leave the block to RESOLVE (R58). -/
def evDecoded (c : Params) (e : EdgeEvent) (s : State) : State :=
  decEdge c .b e (decEdge c .a e (((s.quiet c).setEdge true).setEvent e))

theorem ev_eq (c : Params) (e : EdgeEvent) (s : State) : ev c e s = latch c (resolve c (evDecoded c e s)) := rfl

section
variable (c : Params) (e : EdgeEvent) (s : State)

@[simp] theorem evDecoded_key : (evDecoded c e s).regs.key = s.regs.key := by simp [evDecoded]
@[simp] theorem evDecoded_act : (evDecoded c e s).regs.act = s.regs.act := by simp [evDecoded]

@[simp] theorem ev_done (x : Side) : (ev c e s).wires.done x = (evDecoded c e s).wires.done x := by
  rw [ev_eq, latch_wires, resolve_done]

/-- R78: an `EV` takes each decoder where its own transition does. -/
theorem ev_side (x : Side) :
    (ev c e s).only x = (decEdge c x e s).only x ∧ (ev c e s).wires.done x = (decEdge c x e s).wires.done x := by
  have hlatch : (ev c e s).only x = (evDecoded c e s).only x := by
    rw [ev_eq]
    cases x <;> simp [State.only, latch_regs]
  obtain ⟨hregs, hdone⟩ := decEdge_both_side c x e (((s.quiet c).setEdge true).setEvent e)
  obtain ⟨hregs', hdone'⟩ :=
    decEdge_congr c x e (s := ((s.quiet c).setEdge true).setEvent e) (u := s) (by cases x <;> rfl)
  exact ⟨hlatch.trans (hregs.trans hregs'), (ev_done c e s x).trans (hdone.trans hdone')⟩

end

/-- R115: where decoder B has not completed, RESOLVE is its stage A. -/
theorem resolve_of_not_doneB {c : Params} {s : State} (hB : s.wires.doneB = false) :
    resolve c s = resolveA c (resolveBegin c s) := by
  have hB' : (resolveA c (resolveBegin c s)).wires.doneB = false := by
    obtain ⟨-, h⟩ | ⟨_, -, -, h⟩ | ⟨-, -, h⟩ | ⟨-, -, h⟩ := resolveA_cases c (resolveBegin c s) <;>
      rw [h] <;> exact hB
  rw [resolve, resolveB, hB']
  simp [resBSkipAwon, resBSkipNone]

section
variable {c : Params} {e : EdgeEvent} {s : State}

/-- R115, R123: where neither decoder completes, LATCH holds. -/
theorem ev_latch_of_none_done (hA : (ev c e s).wires.doneA = false) (hB : (ev c e s).wires.doneB = false) :
    (ev c e s).regs.key = s.regs.key ∧ (ev c e s).regs.act = s.regs.act := by
  replace hA : (evDecoded c e s).wires.doneA = false := (ev_done c e s .a).symm.trans hA
  replace hB : (evDecoded c e s).wires.doneB = false := (ev_done c e s .b).symm.trans hB
  have hk : (resolve c (evDecoded c e s)).wires.k = c.nokey := by
    rw [resolve_of_not_doneB hB]
    simp [resolveA, hA, resASkip]
  simp [ev_eq, latch_regs, hk]

/-- R115 to R118, R123: what an event at which decoder A alone completes does, by what ROM_A holds. -/
theorem ev_of_doneA_only {t : State} (ht : ev Config.hw e s = t) (hA : t.wires.doneA = true)
    (hB : t.wires.doneB = false) :
    t.wires.unkB = false ∧
    ((∃ k, Config.hw.romA t.regs.accALo = .hit k ∧
        t.regs.key = k ∧ t.regs.act = true ∧ t.wires.unkA = false) ∨
      (Config.hw.romA t.regs.accALo = .ignored ∧
        t.regs.key = s.regs.key ∧ t.regs.act = s.regs.act ∧ t.wires.unkA = false) ∨
      (Config.hw.romA t.regs.accALo = .miss ∧
        t.regs.key = s.regs.key ∧ t.regs.act = s.regs.act ∧ t.wires.unkA = true)) := by
  subst ht
  replace hA : (evDecoded Config.hw e s).wires.doneA = true := (ev_done _ e s .a).symm.trans hA
  replace hB : (evDecoded Config.hw e s).wires.doneB = false := (ev_done _ e s .b).symm.trans hB
  rw [ev_eq, resolve_of_not_doneB hB]
  obtain ⟨hA', -⟩ | ⟨k, -, hk, h⟩ | ⟨-, hk, h⟩ | ⟨-, hk, h⟩ :=
    resolveA_cases Config.hw (resolveBegin Config.hw (evDecoded Config.hw e s))
  · simp [hA] at hA'
  · have hne : k ≠ Config.hw.nokey := (Config.hit_mem_keys .a _ k hk).2
    rw [h, latch_wires, latch_regs]
    exact ⟨rfl, .inl ⟨k, hk, if_neg hne, if_neg hne, rfl⟩⟩
  · rw [h, latch_wires, latch_regs]
    exact ⟨rfl, .inr (.inl ⟨hk, by simp, by simp, rfl⟩)⟩
  · rw [h, latch_wires, latch_regs]
    exact ⟨rfl, .inr (.inr ⟨hk, by simp, by simp, rfl⟩)⟩

end

/-! ### A run of edge events -/

theorem evRun_append (c : Params) (es es' : List EdgeEvent) (s : State) :
    evRun c (es ++ es') s = evRun c es' (evRun c es s) := by
  induction es generalizing s with
  | nil => rfl
  | cons e es ih => exact ih _

theorem evRun_take_succ (c : Params) {es : List EdgeEvent} {n : Nat} (h : n < es.length) (s : State) :
    evRun c (es.take (n + 1)) s = ev c es[n] (evRun c (es.take n) s) := by
  rw [← List.take_append_getElem h, evRun_append]
  rfl

/-- R78: a run of `EV`s takes each decoder where a run of its own transitions does. -/
theorem evRun_side {c : Params} {x : Side} {es : List EdgeEvent} {s u : State} (h : s.only x = u.only x) :
    (evRun c es s).only x = (decRun c x es u).only x ∧
    (es ≠ [] → (evRun c es s).wires.done x = (decRun c x es u).wires.done x) := by
  induction es generalizing s u with
  | nil => exact ⟨h, fun hne => absurd rfl hne⟩
  | cons e es ih =>
    obtain ⟨hregs, hdone⟩ := ev_side c e s x
    obtain ⟨hregs', hdone'⟩ := decEdge_congr c x e h
    obtain ⟨hrun, hlast⟩ := ih (hregs.trans hregs')
    refine ⟨hrun, fun _ => ?_⟩
    cases es with
    | nil => exact hdone.trans hdone'
    | cons e' es => exact hlast (List.cons_ne_nil _ _)

/-! ### A Protocol A frame -/

/-- R80: every gap of a valid frame is inside its window. -/
theorem gap_of_validFrame {c : Params} {x : Side} {g low high close d : Ticks} {bits : List (Ticks × Ticks)}
    (hv : ValidFrame c x low high bits) (h : ⟨false, d⟩ ∈ (frameEdges g low high bits close).tail) :
    inWin (c.desc x).hh d = true ∨ inWin (c.desc x).dl d = true ∨ inWin (c.desc x).ds d = true := by
  have hgap : d = high ∨ ∃ p ∈ bits, d = p.2 := by simpa [frameEdges, dataEdges] using h
  obtain rfl | ⟨p, hp, rfl⟩ := hgap
  · exact .inl hv.headerHigh
  · exact .inr (hv.data p hp)

/-- R80: the gap of a frame's header is never the first edge. -/
theorem headerGap_mem_tail (before : List EdgeEvent) (g low high : Ticks) (bits : List (Ticks × Ticks))
    (close : Ticks) : ⟨false, high⟩ ∈ (before ++ frameEdges g low high bits close).tail := by
  cases before <;> simp [frameEdges]

section
variable {s : State} {g low high close : Ticks} {bits : List (Ticks × Ticks)}

/-- R85, R100: no edge of a valid Protocol A frame completes decoder B. -/
theorem not_doneB_of_validFrameA (hs : s.regs.phaseB = .idle) (hv : ValidFrame Config.hw .a low high bits) {n : Nat}
    (hn : 0 < n) : (decRun Config.hw .b ((frameEdges g low high bits close).take n) s).wires.done .b = false := by
  rw [← Bool.not_eq_true]
  intro hd
  obtain ⟨before, g', low', high', bits', close', heq, hv'⟩ := validFrame_of_done_take (x := .b) hs hn hd
  have hmem := headerGap_mem_tail before g' low' high' bits' close'
  rw [← heq] at hmem
  have hgap := gap_of_validFrame hv ((List.take_sublist n _).tail.subset hmem)
  obtain ⟨hhh, hdl, hds⟩ := headerHigh_b_disjoint hv'.headerHigh
  simp [hhh, hdl, hds] at hgap

/-- R80, R123: up to the closing edge of a valid Protocol A frame nothing completes, so LATCH holds. -/
theorem latch_held_before_close (hA : s.regs.phaseA = .idle) (hB : s.regs.phaseB = .idle)
    (hv : ValidFrame Config.hw .a low high bits) {n : Nat} (hn : n < (frameEdges g low high bits close).length) :
    (evRun Config.hw ((frameEdges g low high bits close).take n) s).regs.key = s.regs.key ∧
    (evRun Config.hw ((frameEdges g low high bits close).take n) s).regs.act = s.regs.act := by
  induction n with
  | zero => exact ⟨rfl, rfl⟩
  | succ n ih =>
    have hlt := Nat.lt_of_succ_lt hn
    have hne := take_frameEdges_ne_nil g low high bits close n.succ_pos
    have hdoneA := ((evRun_side rfl).2 hne).trans (not_done_before_close (x := .a) hA hv n.succ_pos hn)
    have hdoneB := ((evRun_side rfl).2 hne).trans (not_doneB_of_validFrameA hB hv n.succ_pos)
    rw [evRun_take_succ _ hlt] at hdoneA hdoneB ⊢
    obtain ⟨hkey, hact⟩ := ev_latch_of_none_done hdoneA hdoneB
    exact ⟨hkey.trans (ih hlt).1, hact.trans (ih hlt).2⟩

end

/-- Settles O56: LATCH holds up to the closing edge, at which decoder A completes alone. -/
theorem protocolAFrameLatchesItsKeyAtTheLastEdge : Obligations.ProtocolAFrameLatchesItsKeyAtTheLastEdge := by
  intro s g low high close bits hA hB hv es t
  have hheld := fun n (hn : n < es.length) => latch_held_before_close hA hB hv hn
  obtain ⟨n, hn⟩ : ∃ n, es.length = n + 1 := ⟨_, length_frameEdges g low high bits close⟩
  have hall : es.take (n + 1) = es := List.take_of_length_le hn.le
  have hne : es ≠ [] := List.ne_nil_of_length_eq_add_one hn
  have hlast : t = ev Config.hw es[n] (evRun Config.hw (es.take n) s) := by
    rw [← evRun_take_succ, hall]
  have hdoneA : t.wires.doneA = true :=
    ((evRun_side (x := .a) rfl).2 hne).trans (validFrameCompletesWithItsCode .a s g low high close bits hA hv).1
  have hdoneB : t.wires.doneB = false := by
    have h := not_doneB_of_validFrameA (g := g) (close := close) hB hv n.succ_pos
    rw [hall] at h
    exact ((evRun_side (x := .b) rfl).2 hne).trans h
  obtain ⟨hkey, hact⟩ := hheld n (by omega)
  obtain ⟨hunkB, hrom⟩ := ev_of_doneA_only hlast.symm hdoneA hdoneB
  refine ⟨hheld, hdoneA, hdoneB, hunkB, ?_⟩
  rw [hkey, hact] at hrom
  obtain ⟨k, hr, h⟩ | ⟨hr, h⟩ | ⟨hr, h⟩ := hrom <;> rw [hr] <;> exact h

end Sys2Proof.Machine
end

section
/-! PROOFS. The rows of decoder A (spec/42_decoder_a.md section 4): which row each duration picks in each phase, and
what the row writes. -/

namespace Sys2Proof.Machine

/-! ### What the rows use -/

/-- R74, R79 with the split of DESC_A: a bit goes into ACC_A_HI while CNT_A is below 16, else into ACC_A_LO. -/
theorem append_hw_a_regs (s : State) (b : Bool) :
    (s.append Config.hw .a b).regs =
      if s.regs.cntA.toNat < 16 then
        { s.regs with accAHi := BitVec.ofNat 16 (2 * s.regs.accAHi.toNat + b.toNat),
                      cntA := BitVec.ofNat 8 (s.regs.cntA.toNat + 1) }
      else
        { s.regs with accALo := BitVec.ofNat 32 (2 * s.regs.accALo.toNat + b.toNat),
                      cntA := BitVec.ofNat 8 (s.regs.cntA.toNat + 1) } := by
  have hsplit : (∃ n, Config.hw.descA.split = some n ∧ s.regs.cntA.toNat < n.toNat) ↔ s.regs.cntA.toNat < 16 :=
    ⟨fun ⟨_, hn, hlt⟩ => by cases hn; exact hlt, fun hlt => ⟨16, rfl, hlt⟩⟩
  rw [State.append_a_regs, count_succ_eq_ofNat]
  simp only [hsplit]
  split
  · rw [shiftIn_eq_ofNat _ _ (by decide)]
  · rw [shiftIn_eq_ofNat _ _ (by decide)]

/-- R98: `code_a` as a number. -/
theorem codeA_toNat (r : Regs) : (codeA r).toNat = r.accAHi.toNat * 2 ^ 32 + r.accALo.toNat := by
  rw [codeA, BitVec.toNat_append, ← Nat.shiftLeft_add_eq_or_of_lt r.accALo.isLt, Nat.shiftLeft_eq]

/-! ### The rows by phase -/

/-- Settles O19: in IDLE the level alone picks the row. -/
theorem decoderARowsFromIdle : Obligations.DecoderARowsFromIdle := by
  intro s d hp
  refine ⟨⟨?_, _, rfl, rfl, rfl⟩, ⟨?_, _, rfl, ?_, rfl⟩⟩
  · simp [decode_dselOf, dselRow, hp]
  · simp [decode_dselOf, dselRow, hp]
  · simp [idleRise, ← hp]

/-- Settles O20: in HEADER the window of the edge's level picks the row. -/
theorem decoderARowsFromHeader : Obligations.DecoderARowsFromHeader := by
  intro s d hp
  refine ⟨fun h => ⟨?_, _, rfl, rfl, rfl⟩, fun h => ⟨?_, _, rfl, rfl, rfl⟩, fun h => ⟨?_, _, rfl, rfl, rfl⟩,
    fun h => ⟨?_, _, rfl, rfl, rfl⟩⟩
  · have hw : inWin Config.descA.hl d = true := (inWin_iff _ d).mpr h
    simp [decode_dselOf, dselRow, hp, hw]
  · have hw : inWin Config.descA.hl d = false := inWin_eq_false_of_outside h
    simp [decode_dselOf, dselRow, hp, hw]
  · have hw : inWin Config.descA.hh d = true := (inWin_iff _ d).mpr h
    simp [decode_dselOf, dselRow, hp, hw]
  · have hw : inWin Config.descA.hh d = false := inWin_eq_false_of_outside h
    simp [decode_dselOf, dselRow, hp, hw]

/-- Settles O21: on a falling edge in DATA data-long decides before data-short, and each of the three rows appends. -/
theorem decoderARowsOnFallingData : Obligations.DecoderARowsOnFallingData := by
  intro s d hp
  refine ⟨fun h => ⟨?_, _, rfl, by simp [dataFallOne], append_hw_a_regs s true⟩,
    fun h => ⟨?_, _, rfl, by simp [dataFallZero], append_hw_a_regs s false⟩,
    fun h => ⟨?_, _, rfl, by simp [dataFallBad], ?_⟩⟩
  · have hl : inWin Config.descA.dl d = true := (inWin_iff _ d).mpr h
    simp [decode_dselOf, dselRow, hp, hl]
  · have hl : inWin Config.descA.dl d = false := inWin_eq_false_of_outside (.inl (show d.toNat ≤ 200 by omega))
    have hs : inWin Config.descA.ds d = true := (inWin_iff _ d).mpr h
    simp [decode_dselOf, dselRow, hp, hl, hs]
  · have hl : inWin Config.descA.dl d = false :=
      inWin_eq_false_of_outside (show d.toNat ≤ 200 ∨ 300 ≤ d.toNat by omega)
    have hs : inWin Config.descA.ds d = false :=
      inWin_eq_false_of_outside (show d.toNat ≤ 35 ∨ 130 ≤ d.toNat by omega)
    simp [decode_dselOf, dselRow, hp, hl, hs]
  · rw [dataFallBad, State.setDone_regs, State.collapse_a_regs, append_hw_a_regs]
    split <;> rfl

/-- Settles O22: on a rising edge in DATA the count alone picks the row, and completion leaves the code standing. -/
theorem decoderARowsOnRisingData : Obligations.DecoderARowsOnRisingData := by
  intro s d hp
  have hfull : full Config.hw .a s.regs = true ↔ s.regs.cntA.toNat = 48 := by
    rw [full, beq_iff_eq, ← BitVec.toNat_inj]
    rfl
  refine ⟨fun h => ⟨?_, _, rfl, rfl, rfl⟩, fun h => ⟨?_, _, rfl, rfl, rfl, codeA_toNat _⟩⟩
  · have hf : full Config.hw .a s.regs = false := Bool.eq_false_of_not_eq_true (hfull.not.mpr h)
    simp [decode_dselOf, dselRow, hp, hf]
  · simp [decode_dselOf, dselRow, hp, hfull.mpr h]

end Sys2Proof.Machine
end

section
/-! PROOFS. Two runs side by side that differ in ACC_A_HI (spec/42_decoder_a.md R97): decoder A shifts into it and
clears it, and nothing but the output `code_a` looks at it. -/

namespace Sys2Proof.Machine

/-- `u` is `s` but for ACC_A_HI. -/
def DiffersInAccAHi (s u : State) : Prop :=
  ∃ v, u = s.setAccAHi v

/-! ### What writes ACC_A_HI -/

section
variable {s u : State}

theorem DiffersInAccAHi.setPhase (h : DiffersInAccAHi s u) (x : Side) (p : Phase) :
    DiffersInAccAHi (s.setPhase x p) (u.setPhase x p) := by
  obtain ⟨v, rfl⟩ := h
  exact ⟨v, by cases x <;> rfl⟩

theorem DiffersInAccAHi.setDone (h : DiffersInAccAHi s u) (x : Side) (b : Bool) :
    DiffersInAccAHi (s.setDone x b) (u.setDone x b) := by
  obtain ⟨v, rfl⟩ := h
  exact ⟨v, by cases x <;> rfl⟩

/-- R86, R101: a falling edge in IDLE reads no register. -/
theorem DiffersInAccAHi.idleFall (h : DiffersInAccAHi s u) (x : Side) :
    DiffersInAccAHi (Machine.idleFall x s) (Machine.idleFall x u) := by
  obtain ⟨v, rfl⟩ := h
  cases x
  · exact ⟨0, rfl⟩
  · exact ⟨v, rfl⟩

/-- R74: where a bit goes is settled by the count, which the two states share. -/
theorem DiffersInAccAHi.append (h : DiffersInAccAHi s u) (c : Params) (x : Side) (b : Bool) :
    DiffersInAccAHi (s.append c x b) (u.append c x b) := by
  obtain ⟨v, rfl⟩ := h
  cases x with
  | b => exact ⟨v, rfl⟩
  | a =>
    unfold State.append State.shiftBit
    cases c.descA.split with
    | none => exact ⟨v, rfl⟩
    | some n =>
      have hcnt : (s.setAccAHi v).regs.cntA = s.regs.cntA := rfl
      dsimp only
      rw [hcnt]
      by_cases hn : s.regs.cntA.toNat < n.toNat
      · rw [if_pos hn, if_pos hn]
        exact ⟨_, rfl⟩
      · rw [if_neg hn, if_neg hn]
        exact ⟨v, rfl⟩

/-- R76: a decoder's transition is picked by phase, windows and count, which the two states share. -/
theorem DiffersInAccAHi.decEdge (h : DiffersInAccAHi s u) (c : Params) (x : Side) (e : EdgeEvent) :
    DiffersInAccAHi (Machine.decEdge c x e s) (Machine.decEdge c x e u) := by
  have hphase : u.regs.phase x = s.regs.phase x := by
    obtain ⟨v, rfl⟩ := h
    cases x <;> rfl
  have hfull : full c x u.regs = full c x s.regs := by
    obtain ⟨v, rfl⟩ := h
    cases x <;> rfl
  unfold Machine.decEdge
  rw [hphase, hfull]
  cases s.regs.phase x with
  | idle =>
    cases e.level
    · exact h.idleFall x
    · exact (h.setPhase x .idle).setDone x false
  | header =>
    cases e.level
    · cases inWin (c.desc x).hh e.dur
      · exact (h.setPhase x .idle).setDone x false
      · exact (h.setPhase x .data).setDone x false
    · cases inWin (c.desc x).hl e.dur
      · exact (h.setPhase x .idle).setDone x false
      · exact h.setDone x false
  | data =>
    cases e.level
    · obtain ⟨-, hc⟩ | ⟨-, -, hc⟩ | ⟨-, -, hc⟩ := classify_cases (c.desc x) e.dur <;> rw [hc]
      · exact (h.append c x true).setDone x false
      · exact (h.append c x false).setDone x false
      · exact ((h.append c x false).setPhase x .idle).setDone x false
    · cases full c x s.regs
      · exact h.setDone x false
      · exact (h.setPhase x .idle).setDone x true

/-- R61: both decoders of a POLL take one and the same sampled event. -/
theorem DiffersInAccAHi.decoded (h : DiffersInAccAHi s u) (c : Params) (ir : Bool) :
    DiffersInAccAHi (Machine.decoded c ir s) (Machine.decoded c ir u) := by
  have hsampled : DiffersInAccAHi (sampled c ir s) (sampled c ir u) := by
    obtain ⟨v, rfl⟩ := h
    exact ⟨v, rfl⟩
  have hevent : sampledEvent c ir u.regs = sampledEvent c ir s.regs := by
    obtain ⟨v, rfl⟩ := h
    rfl
  unfold Machine.decoded
  rw [hevent]
  exact (hsampled.decEdge c .a _).decEdge c .b _

end

/-! ### What does not read ACC_A_HI -/

section
variable (c : Params) (s : State) (v : BitVec 16)

/-- R97, R112: a lookup code is ACC_A_LO or ACC_B. -/
theorem lookupCode_setAccAHi (x : Side) : lookupCode x (s.setAccAHi v).regs = lookupCode x s.regs := by
  cases x <;> rfl

theorem resolveA_setAccAHi : resolveA c (s.setAccAHi v) = (resolveA c s).setAccAHi v := by
  rw [resolveA, resolveA, State.setAccAHi_wires, lookupCode_setAccAHi]
  cases s.wires.doneA with
  | false => rfl
  | true => cases romRead c .a (lookupCode .a s.regs) <;> rfl

theorem resolveB_setAccAHi : resolveB c (s.setAccAHi v) = (resolveB c s).setAccAHi v := by
  rw [resolveB, resolveB, State.setAccAHi_wires, lookupCode_setAccAHi]
  cases s.wires.aWon with
  | true => rfl
  | false =>
    cases s.wires.doneB with
    | false => rfl
    | true => cases romRead c .b (lookupCode .b s.regs) <;> rfl

/-- R97, R115: RESOLVE reads completions and lookup codes. -/
theorem resolve_setAccAHi : resolve c (s.setAccAHi v) = (resolve c s).setAccAHi v := by
  have hbegin : resolveBegin c (s.setAccAHi v) = (resolveBegin c s).setAccAHi v := rfl
  rw [resolve, hbegin, resolveA_setAccAHi, resolveB_setAccAHi, resolve]

/-- R123: LATCH reads the wire `k`. -/
theorem latch_setAccAHi : latch c (s.setAccAHi v) = (latch c s).setAccAHi v := by
  rw [latch, latch, State.setAccAHi_wires]
  cases kvalid c s.wires <;> rfl

end

/-- R97: the key a POLL resolves and latches does not depend on ACC_A_HI. -/
theorem DiffersInAccAHi.poll {s u : State} (h : DiffersInAccAHi s u) (c : Params) (ir : Bool) :
    DiffersInAccAHi (Machine.poll c ir s) (Machine.poll c ir u) := by
  have hprev : u.regs.prev = s.regs.prev := by
    obtain ⟨v, rfl⟩ := h
    rfl
  by_cases hir : ir = s.regs.prev
  · rw [poll_noEdge c ir s hir, poll_noEdge c ir u (hir.trans hprev.symm), idlechk_eq, idlechk_eq]
    obtain ⟨v, rfl⟩ := h
    exact ⟨v, rfl⟩
  · rw [poll_eq_latch hir, poll_eq_latch (hprev ▸ hir)]
    obtain ⟨v, hv⟩ := h.decoded c ir
    exact ⟨v, by rw [hv, resolve_setAccAHi, latch_setAccAHi]⟩

/-! ### Steps and runs -/

/-- R97: an operation on states that differ in ACC_A_HI only leaves such states. -/
theorem exec_differsInAccAHi {i : Instr} {s u t : State} (h : DiffersInAccAHi s u) (ht : exec i s = .next t) :
    ∃ w, exec i u = .next w ∧ DiffersInAccAHi t w := by
  cases i <;> cases ht <;> refine ⟨_, rfl, ?_⟩
  case poll ir => exact h.poll _ ir
  case tickpoll ir =>
    have htick : DiffersInAccAHi (tick Config.hw s) (tick Config.hw u) := by
      obtain ⟨v, rfl⟩ := h
      exact ⟨v, rfl⟩
    exact htick.poll _ ir
  case aDataFallOne | bDataFallOne => exact (h.append _ _ true).setDone _ false
  case aDataFallZero | bDataFallZero => exact (h.append _ _ false).setDone _ false
  case aDataFallBad | bDataFallBad => exact ((h.append _ _ false).setPhase _ .idle).setDone _ false
  all_goals
    obtain ⟨v, rfl⟩ := h
    exact ⟨_, rfl⟩

/-- R97: so does a step. -/
theorem step_differsInAccAHi {s u t : State} (h : DiffersInAccAHi s u) (ht : step s = .next t) :
    ∃ w, step u = .next w ∧ DiffersInAccAHi t w := by
  obtain ⟨v, rfl⟩ := h
  obtain ⟨hs, ht⟩ | ⟨w, rest, i, hs, hd, ht⟩ := step_cases ht
  · rw [step_of_nothing_pending (s := s.setAccAHi v) hs]
    exact exec_differsInAccAHi ⟨v, rfl⟩ ht
  · rw [step_of_decode_ok (s := s.setAccAHi v) hs hd]
    exact exec_differsInAccAHi ⟨v, rfl⟩ ht

/-- Settles O51, from the step: of the outputs, `code_a` alone shows ACC_A_HI. -/
theorem highAccumulatorNeverInfluencesTheKey : Obligations.HighAccumulatorNeverInfluencesTheKey := by
  intro n s t v ht
  obtain ⟨_, hrun, v', rfl⟩ := run_of_step_relation step_differsInAccAHi ⟨v, rfl⟩ ht
  exact ⟨v', _, hrun, rfl, rfl, rfl, rfl, rfl⟩

end Sys2Proof.Machine
end

section
/-! PROOFS. The rows of decoder B (spec/43_decoder_b.md section 4): which row each duration picks in each phase, and
what the row writes. -/

namespace Sys2Proof.Machine

/-! ### What the rows use -/

/-- R74, R79: decoder B has one accumulator, so every bit goes into ACC_B. -/
theorem append_b_regs_eq_ofNat (s : State) (c : Params) (b : Bool) :
    (s.append c .b b).regs =
      { s.regs with accB := BitVec.ofNat 32 (2 * s.regs.accB.toNat + b.toNat),
                    cntB := BitVec.ofNat 8 (s.regs.cntB.toNat + 1) } := by
  rw [State.append_b_regs, count_succ_eq_ofNat, shiftIn_eq_ofNat _ _ (by decide)]

/-! ### The rows by phase -/

/-- Settles O23: in IDLE the level alone picks the row. -/
theorem decoderBRowsFromIdle : Obligations.DecoderBRowsFromIdle := by
  intro s d hp
  refine ⟨⟨?_, _, rfl, rfl, rfl⟩, ⟨?_, _, rfl, ?_, rfl⟩⟩
  · simp [decode_dselOf, dselRow, hp]
  · simp [decode_dselOf, dselRow, hp]
  · simp [idleRise, ← hp]

/-- Settles O24: both levels test the same bounds, so where the duration lies settles both windows at once. -/
theorem decoderBRowsFromHeader : Obligations.DecoderBRowsFromHeader := by
  intro s d hp
  have hin (h : 700 < d.toNat ∧ d.toNat < 990) :
      inWin Config.descB.hl d = true ∧ inWin Config.descB.hh d = true :=
    ⟨(inWin_iff _ d).mpr h, (inWin_iff _ d).mpr h⟩
  have hout (h : d.toNat ≤ 700 ∨ 990 ≤ d.toNat) :
      inWin Config.descB.hl d = false ∧ inWin Config.descB.hh d = false :=
    ⟨inWin_eq_false_of_outside h, inWin_eq_false_of_outside h⟩
  refine ⟨fun h => ⟨?_, _, rfl, rfl, rfl⟩, fun h => ⟨?_, _, rfl, rfl, rfl⟩, fun h => ⟨?_, _, rfl, rfl, rfl⟩,
    fun h => ⟨?_, _, rfl, rfl, rfl⟩⟩
  · simp [decode_dselOf, dselRow, hp, hin h]
  · simp [decode_dselOf, dselRow, hp, hout h]
  · simp [decode_dselOf, dselRow, hp, hin h]
  · simp [decode_dselOf, dselRow, hp, hout h]

/-- Settles O25: on a falling edge in DATA data-long decides before data-short, and each of the three rows appends. -/
theorem decoderBRowsOnFallingData : Obligations.DecoderBRowsOnFallingData := by
  intro s d hp
  refine ⟨fun h => ⟨?_, _, rfl, rfl, append_b_regs_eq_ofNat s _ true⟩,
    fun h => ⟨?_, _, rfl, rfl, append_b_regs_eq_ofNat s _ false⟩,
    fun h => ⟨?_, _, rfl, rfl, ?_⟩⟩
  · have hl : inWin Config.descB.dl d = true := (inWin_iff _ d).mpr h
    simp [decode_dselOf, dselRow, hp, hl]
  · have hl : inWin Config.descB.dl d = false := inWin_eq_false_of_outside (.inl (show d.toNat ≤ 250 by omega))
    have hs : inWin Config.descB.ds d = true := (inWin_iff _ d).mpr h
    simp [decode_dselOf, dselRow, hp, hl, hs]
  · have hl : inWin Config.descB.dl d = false :=
      inWin_eq_false_of_outside (show d.toNat ≤ 250 ∨ 350 ≤ d.toNat by omega)
    have hs : inWin Config.descB.ds d = false :=
      inWin_eq_false_of_outside (show d.toNat ≤ 35 ∨ 220 ≤ d.toNat by omega)
    simp [decode_dselOf, dselRow, hp, hl, hs]
  · rw [dataFallBad, State.setDone_regs, State.collapse_b_regs, append_b_regs_eq_ofNat]
    rfl

/-- Settles O26: on a rising edge in DATA the count alone picks the row, and completion leaves ACC_B, which is
`code_b` (R113), standing. -/
theorem decoderBRowsOnRisingData : Obligations.DecoderBRowsOnRisingData := by
  intro s d hp
  have hfull : full Config.hw .b s.regs = true ↔ s.regs.cntB.toNat = 32 := by
    rw [full, beq_iff_eq, ← BitVec.toNat_inj]
    rfl
  refine ⟨fun h => ⟨?_, _, rfl, rfl, rfl⟩, fun h => ⟨?_, _, rfl, rfl, rfl, rfl⟩⟩
  · have hf : full Config.hw .b s.regs = false := Bool.eq_false_of_not_eq_true (hfull.not.mpr h)
    simp [decode_dselOf, dselRow, hp, hf]
  · simp [decode_dselOf, dselRow, hp, hfull.mpr h]

end Sys2Proof.Machine
end

section
/-! PROOFS. RESOLVE, LATCH and the idle check (spec/44_resolver_latch.md): which row each condition picks and what it
writes, RESOLVE as one equation, what a POLL shows of the ROMs, and that one decoder at most completes in a step. -/

namespace Sys2Proof.Machine

open Sys2Proof.Safety

/-! ### The rows one by one -/

/-- R36: no hit of the hardware's ROMs has the key 0x00. -/
theorem hw_romRead_ne_hit_zero (x : Side) (code : Code) : romRead Config.hw x code ≠ .hit 0 :=
  fun h => (Config.hit_mem_keys x code 0 h).2 rfl

/-- Settles O35: ASEL picks by the completion and by what ROM_A holds. -/
theorem resolverRowsOfStageA : Obligations.ResolverRowsOfStageA := by
  intro s
  have hsel := decode_aselOf Config.hw s (hw_romRead_ne_hit_zero .a _)
  refine ⟨fun hd => ?_, fun hd => ?_, rfl, ⟨_, rfl, rfl, rfl⟩, rfl, ⟨_, rfl, rfl, rfl⟩, fun hw => ?_, rfl⟩
  · rw [hsel, hd]; rfl
  · rw [hsel, hd]
    cases Config.hw.romA s.regs.accALo <;> rfl
  · rw [decode_bselOf Config.hw s (hw_romRead_ne_hit_zero .b _), hw]; rfl

/-- Settles O36: where A did not win, BSEL picks by the completion and by what ROM_B holds. -/
theorem resolverRowsOfStageB : Obligations.ResolverRowsOfStageB := by
  intro s
  have hsel := decode_bselOf Config.hw s (hw_romRead_ne_hit_zero .b _)
  refine ⟨fun hw hd => ?_, fun hw hd => ?_, rfl, ⟨_, rfl, rfl, rfl⟩, rfl, ⟨_, rfl, rfl, rfl⟩⟩
  · rw [hsel, hw, hd]; rfl
  · rw [hsel, hw, hd]
    cases Config.hw.romB s.regs.accB <;> rfl

/-- Settles O39: LSEL picks by whether `k` is NOKEY. -/
theorem latchRowsStoreARealKey : Obligations.LatchRowsStoreARealKey := by
  intro s
  have hsel := decode_lselOf Config.hw s
  exact ⟨fun hk => hsel.trans (congrArg Except.ok (if_neg hk)), fun hk => hsel.trans (congrArg Except.ok (if_pos hk)),
    ⟨_, rfl, rfl, rfl⟩, rfl⟩

/-- R55, R126: which of its rows ISEL picks. -/
theorem mem_picks_iselOf (c : Params) (s : State) :
    (.idleOvf ∈ picks (iselOf c s) ↔ s.regs.tov = true) ∧
    (.idleThresh ∈ picks (iselOf c s) ↔ overThresh c s.regs = true) ∧
    (.idleNone ∈ picks (iselOf c s) ↔ s.regs.tov = false ∧ overThresh c s.regs = false) := by
  rw [picks_iselOf]
  cases s.regs.tov <;> cases overThresh c s.regs <;> decide

/-- Settles O40: ISEL picks each row by its own test, and each row writes what it names. -/
theorem idleRowsReleaseTheKey : Obligations.IdleRowsReleaseTheKey := by
  intro s
  have hover : overThresh Config.hw s.regs = true ↔ 20000 < s.regs.tcnt.toNat := overThresh_iff Config.hw s.regs
  have hnot : overThresh Config.hw s.regs = false ↔ s.regs.tcnt.toNat ≤ 20000 := by
    rw [← Bool.not_eq_true, hover, Nat.not_lt]
  obtain ⟨hovf, hthresh, hnone⟩ := mem_picks_iselOf Config.hw s
  exact ⟨hovf, hthresh.trans hover, hnone.trans (and_congr_right' hnot), ⟨_, rfl, rfl, rfl⟩, ⟨_, rfl, rfl, rfl⟩, rfl⟩

/-- Settles O41: the rows ISEL picks are the idle check, which runs both tests. -/
theorem idleCheckRunsBothTests : Obligations.IdleCheckRunsBothTests := by
  intro s
  refine ⟨idlechk Config.hw s, runsAllPicked_iselOf s, ?_, ?_⟩
  · rw [idlechk_eq]; rfl
  · rw [idlechk_eq]

/-! ### RESOLVE as a whole -/

/-- `s` with the four wires that RESOLVE writes (`resolve_writes`). -/
def State.withResult (s : State) (k : KeyCode) (aWon unkA unkB : Bool) : State :=
  { s with wires := { s.wires with k := k, aWon := aWon, unkA := unkA, unkB := unkB } }

section
variable {c : Params} {s : State}

/-- R116: on A's hit stage B does nothing. -/
theorem resolve_of_hitA {k : KeyCode} (hd : s.wires.doneA = true) (hr : c.romA s.regs.accALo = .hit k) :
    resolve c s = s.withResult k true false false := by
  have hA : resolveA c (resolveBegin c s) = s.withResult k true false false := by
    simp only [resolveA, resolveBegin_wires, resolveBegin_regs, hd, romRead, lookupCode_a, hr, if_true]
    rw [resAHit, resolveBegin_regs, romRead, lookupCode_a, hr]
    rfl
  rw [resolve, hA]
  rfl

/-- R115, R117, R118: without a hit of A, stage B starts from NOKEY. -/
theorem resolve_of_no_hitA (h : ¬ ∃ k, s.wires.doneA = true ∧ c.romA s.regs.accALo = .hit k) :
    resolve c s =
      resolveB c (s.withResult c.nokey false (s.wires.doneA && c.romA s.regs.accALo == .miss) false) := by
  rw [resolve]
  congr 1
  obtain ⟨hd, hs⟩ | ⟨k, hd, hr, -⟩ | ⟨hd, hr, hs⟩ | ⟨hd, hr, hs⟩ := resolveA_cases c (resolveBegin c s)
  · rw [hs, show s.wires.doneA = false from hd]; rfl
  · exact absurd ⟨k, hd, hr⟩ h
  · rw [hs, show c.romA s.regs.accALo = .ignored from hr, show s.wires.doneA = true from hd]; rfl
  · rw [hs, show c.romA s.regs.accALo = .miss from hr, show s.wires.doneA = true from hd]; rfl

end

/-- What RESOLVE can do (R115 to R121): A's hit, or without one the four things stage B does. -/
theorem resolve_cases (c : Params) (s : State) :
    (∃ k, s.wires.doneA = true ∧ c.romA s.regs.accALo = .hit k ∧ resolve c s = s.withResult k true false false) ∨
    (¬ ∃ k, s.wires.doneA = true ∧ c.romA s.regs.accALo = .hit k) ∧
      ∃ unkA, unkA = (s.wires.doneA && c.romA s.regs.accALo == .miss) ∧
      ((s.wires.doneB = false ∧ resolve c s = s.withResult c.nokey false unkA false) ∨
      (∃ k, s.wires.doneB = true ∧ c.romB s.regs.accB = .hit k ∧ resolve c s = s.withResult k false unkA false) ∨
      (s.wires.doneB = true ∧ c.romB s.regs.accB = .ignored ∧ resolve c s = s.withResult c.nokey false unkA false) ∨
      (s.wires.doneB = true ∧ c.romB s.regs.accB = .miss ∧ resolve c s = s.withResult c.nokey false unkA true)) := by
  by_cases h : ∃ k, s.wires.doneA = true ∧ c.romA s.regs.accALo = .hit k
  · obtain ⟨k, hd, hr⟩ := h
    exact .inl ⟨k, hd, hr, resolve_of_hitA hd hr⟩
  · refine .inr ⟨h, _, rfl, ?_⟩
    rw [resolve_of_no_hitA h]
    obtain ⟨hw, -⟩ | ⟨-, hB⟩ | ⟨k, -, hB⟩ | ⟨-, hB⟩ | ⟨-, hB⟩ := resolveB_cases c (s.withResult c.nokey false _ false)
    · exact nomatch hw
    · exact .inl hB
    · exact .inr (.inl ⟨k, hB⟩)
    · exact .inr (.inr (.inl hB))
    · exact .inr (.inr (.inr hB))

/-- Settles O37, case by case of what RESOLVE can do. -/
theorem resolveTriesAThenB : Obligations.ResolveTriesAThenB := by
  intro c s won hc
  refine ⟨resolve_regs c s, ?_⟩
  obtain ⟨k, hd, hr, h⟩ | ⟨hA, unkA, hunk, hB⟩ := resolve_cases c s
  · have hk : (k != 0) = true := bne_iff_ne.mpr fun h0 => hc _ (h0 ▸ hr)
    have hwon : won = true := by simp only [won, hd, hr, romKey, hk, Bool.and_self]
    rw [h, hwon, hr]
    simp [State.withResult, romKey]
  · have hwon : won = false := by
      simp only [won]
      cases hr : c.romA s.regs.accALo with
      | hit k =>
        have hd : s.wires.doneA = false := by simpa [hr] using hA
        rw [hd, Bool.false_and]
      | ignored | miss => simp [romKey]
    rw [hwon, ← hunk]
    obtain ⟨hd, h⟩ | ⟨k, hd, hr, h⟩ | ⟨hd, hr, h⟩ | ⟨hd, hr, h⟩ := hB
    · simp [h, State.withResult, hd]
    · simp [h, State.withResult, hd, hr]
    · simp [h, State.withResult, hd, hr]
    · simp [h, State.withResult, hd, hr]

/-! ### What a POLL shows -/

/-- R122, R131, R115: the wires `w` of a POLL show what the ROMs hold for the accumulators in `r`. -/
structure ShowsRoms (r : Regs) (w : Wires) : Prop where
  unkA : w.unkA = true ↔ w.doneA = true ∧ Config.hw.romA r.accALo = .miss
  unkB : w.unkB = true ↔ w.doneB = true ∧ w.aWon = false ∧ Config.hw.romB r.accB = .miss
  aWon : w.aWon = true ↔ w.doneA = true ∧ Config.hw.romA r.accALo = .hit w.k
  key : w.k ≠ 0 ↔ w.aWon = true ∨ (w.aWon = false ∧ w.doneB = true ∧ Config.hw.romB r.accB = .hit w.k)

/-- R26: quiet wires show nothing, since no decoder completed. -/
theorem showsRoms_quiet (r : Regs) : ShowsRoms r (Wires.quiet Config.hw) := by
  constructor <;> simp [Wires.quiet]

/-- R115, R131: RESOLVE shows what the ROMs hold; no key of a ROM is NOKEY (R36). -/
theorem showsRoms_resolve (s : State) : ShowsRoms s.regs (resolve Config.hw s).wires := by
  obtain ⟨k, hd, hr, h⟩ | ⟨hA, unkA, hunk, hB⟩ := resolve_cases Config.hw s
  · have hk : k ≠ 0 := (Config.hit_mem_keys .a _ k hr).2
    rw [h]
    exact { unkA := by simp [State.withResult, hr], unkB := by simp [State.withResult],
            aWon := iff_of_true rfl ⟨hd, hr⟩, key := iff_of_true hk (.inl rfl) }
  · have hmiss : unkA = true ↔ s.wires.doneA = true ∧ Config.hw.romA s.regs.accALo = .miss := by simp [hunk]
    have hlost (k : KeyCode) : false = true ↔ s.wires.doneA = true ∧ Config.hw.romA s.regs.accALo = .hit k :=
      iff_of_false Bool.false_ne_true fun hk => hA ⟨k, hk⟩
    obtain ⟨hd, h⟩ | ⟨k, hd, hr, h⟩ | ⟨hd, hr, h⟩ | ⟨hd, hr, h⟩ := hB <;> rw [h]
    · exact { unkA := hmiss, unkB := by simp [State.withResult, hd], aWon := hlost _
              key := by simp [State.withResult, hd] }
    · have hk : k ≠ 0 := (Config.hit_mem_keys .b _ k hr).2
      exact { unkA := hmiss, unkB := by simp [State.withResult, hr], aWon := hlost _
              key := iff_of_true hk (.inr ⟨rfl, hd, hr⟩) }
    · exact { unkA := hmiss, unkB := by simp [State.withResult, hr], aWon := hlost _
              key := by simp [State.withResult, hr] }
    · exact { unkA := hmiss, unkB := iff_of_true rfl ⟨hd, rfl, hr⟩, aWon := hlost _
              key := by simp [State.withResult, hr] }

/-- R122: every POLL shows what the ROMs hold, since LATCH and the idle check write neither wires nor accumulators. -/
theorem showsRoms_poll (ir : Bool) (s : State) : ShowsRoms (poll Config.hw ir s).regs (poll Config.hw ir s).wires := by
  by_cases h : ir = s.regs.prev
  · rw [poll_wires_of_noEdge h]
    exact showsRoms_quiet _
  · rw [poll_eq_latch h, latch_wires, latch_regs, resolve_regs]
    obtain ⟨hunkA, hunkB, haWon, hkey⟩ := showsRoms_resolve (decoded Config.hw ir s)
    exact ⟨hunkA, hunkB, haWon, hkey⟩

/-- Settles O38, clause by clause of what a POLL shows. -/
theorem pollShowsWhatTheRomsHold : Obligations.PollShowsWhatTheRomsHold := by
  intro s ir
  obtain ⟨hunkA, hunkB, haWon, hkey⟩ := showsRoms_poll ir s
  exact ⟨_, rfl, hunkA, hunkB, haWon, hkey⟩

/-! ### One completion at most -/

/-- R32 item 6: what the invariants say of the two counts in DATA. -/
def CountsApart (r : Regs) : Prop :=
  r.phaseA = .data → r.phaseB = .data → r.cntA.toNat < r.cntB.toNat

/-- R128: at the targets 48 and 32 decoder B is not ahead, so a POLL completes one decoder at most. -/
theorem poll_not_both_done {s : State} (h : CountsApart s.regs) (ir : Bool) :
    ¬ ((poll Config.hw ir s).wires.done .a = true ∧ (poll Config.hw ir s).wires.done .b = true) := by
  by_cases hir : ir = s.regs.prev
  · simp [poll_wires_of_noEdge hir, Wires.quiet]
  · rw [poll_done_of_edge hir, poll_done_of_edge hir, decEdge_done, decEdge_done]
    simp only [full, Bool.and_eq_true, beq_iff_eq]
    rintro ⟨⟨⟨hpA, -⟩, hnA⟩, ⟨⟨hpB, -⟩, hnB⟩⟩
    have hlt : (s.regs.cnt .a).toNat < (s.regs.cnt .b).toNat := h hpA hpB
    rw [hnA, hnB] at hlt
    exact absurd hlt (by decide)

/-- R128: no operation of the block completes both decoders. -/
theorem exec_not_both_done {i : Instr} {s t : State} (h : CountsApart s.regs) (hi : IsBlockOp i = true)
    (ht : exec i s = .next t) : ¬ (t.wires.doneA = true ∧ t.wires.doneB = true) := by
  cases i <;> cases hi <;> cases ht
  case poll ir => exact poll_not_both_done h ir
  case tickpoll ir => exact poll_not_both_done (s := tick Config.hw s) h ir
  all_goals simp [Wires.quiet]

/-- Settles O46: a step from a state with the invariants is one operation of the block. -/
theorem decodersNeverCompleteTogether : Obligations.DecodersNeverCompleteTogether := by
  intro s t h hs
  obtain ⟨-, ht⟩ | ⟨w, rest, i, hin, hd, ht⟩ := step_cases hs
  · exact exec_not_both_done h.apart rfl ht
  · have hw : w.blockLevel = true := h.schedule w (hin ▸ List.mem_cons_self)
    exact exec_not_both_done (s := { s with inputs := rest }) h.apart (isBlockOp_of_blockLevel hw hd) ht

end Sys2Proof.Machine
end

section
/-! PROOFS. No condition is fatal (spec/60_exceptions.md R133): every operation answers a next state, so a schedule of
the block's own strobes runs on for ever. -/

namespace Sys2Proof.Machine

open Sys2Proof.Safety

/-- Settles O42, operation by operation: POLL and the rows that append a bit cite what those leave pending, and the
others write no more than single fields. -/
theorem everyOperationAnswersANextState : Obligations.EveryOperationAnswersANextState := by
  intro i s
  cases i <;> refine ⟨_, rfl, ?_⟩
  case poll ir => exact poll_inputs _ ir s
  case tickpoll ir => exact poll_inputs _ ir (tick Config.hw s)
  case aDataFallOne | bDataFallOne => exact s.append_inputs _ _ true
  case aDataFallZero | aDataFallBad | bDataFallZero | bDataFallBad => exact s.append_inputs _ _ false
  all_goals rfl

/-- R57: none of the block's strobes is a reserved selector. -/
theorem decode_of_blockLevel {w : Selector} (hw : w.blockLevel = true) : ∃ i, decode w = .ok i := by
  obtain ⟨rst, tick, poll, h⟩ := blockLevel_strobes w hw
  exact ⟨_, (congrArg decode h).trans (decode_bcmd rst tick poll w.irIn)⟩

/-- Settles O43: a step runs NOP or what the oldest strobes decode to, and that leaves the other choices pending. -/
theorem blockSchedulesNeverStop : Obligations.BlockSchedulesNeverStop := by
  intro s hb
  cases hs : s.inputs with
  | nil =>
    obtain ⟨t, ht, hin⟩ := everyOperationAnswersANextState .nop s
    exact ⟨t, (step_of_nothing_pending hs).trans ht, fun v hv => hb v (hin ▸ hv)⟩
  | cons w rest =>
    have hsched : ∀ v ∈ w :: rest, v.blockLevel = true := hs ▸ hb
    obtain ⟨i, hd⟩ := decode_of_blockLevel (hsched w List.mem_cons_self)
    obtain ⟨t, ht, hin : t.inputs = rest⟩ := everyOperationAnswersANextState i { s with inputs := rest }
    exact ⟨t, (step_of_decode_ok hs hd).trans ht, fun v hv => hsched v (List.mem_cons_of_mem w (hin ▸ hv))⟩

end Sys2Proof.Machine
end

section
/-! PROOFS. RESET, and what silence does (spec/70_reset_and_hazards.md R147, R160, R165): it holds the decoders, and
releases the key and the indicator. -/

namespace Sys2Proof.Machine

open Sys2Proof.Safety

/-! ### RESET -/

/-- R48: the most significant bit of a BCMD is its strobe `rst`. -/
theorem getLsbD_packBits_rst : ∀ rst tick poll : Bool, (packBits [rst, tick, poll]).getLsbD 2 = rst := by decide

/-- Settles O1: a BCMD with `rst` set is three strobes of which the first wins, and RESET writes the whole record. -/
theorem resetWritesEveryRegister : Obligations.ResetWritesEveryRegister := by
  refine ⟨fun v ir hv hrst => ?_, fun s => ⟨reset Config.hw s, rfl, rfl, rfl⟩⟩
  have hblock : Selector.blockLevel ⟨.bcmd, v, ir⟩ = true := decide_eq_true hv
  obtain ⟨rst, tick, poll, hw⟩ := blockLevel_strobes _ hblock
  obtain rfl : v = packBits [rst, tick, poll] := congrArg Selector.sel hw
  rw [getLsbD_packBits_rst] at hrst
  rw [decode_bcmd, if_pos hrst]

/-! ### Without an edge the decoders hold -/

/-- R62: a POLL that sees no edge leaves a decoder as it is. -/
theorem poll_only_of_noEdge {c : Params} {ir : Bool} {s : State} (h : (poll c ir s).wires.edge = false) (x : Side) :
    (poll c ir s).only x = s.only x := by
  have hir : ir = s.regs.prev := by simpa [edgeSeen] using h
  have hregs := poll_regs_of_noEdge (c := c) hir
  cases x <;> rw [State.only, hregs] <;> rfl

/-- R66: TICK leaves a decoder as it is. -/
theorem tick_only (c : Params) (s : State) (x : Side) : (tick c s).only x = s.only x := by
  cases x <;> rfl

/-- R160: an operation of the block that sees no edge and is no RESET leaves a decoder as it is. -/
theorem exec_only_of_noEdge {i : Instr} {s t : State} (hi : IsBlockOp i = true) (hr : i ≠ .reset)
    (ht : exec i s = .next t) (he : t.wires.edge = false) (x : Side) : t.only x = s.only x := by
  cases i <;> cases hi <;> cases ht
  case reset => exact absurd rfl hr
  case nop => cases x <;> rfl
  case tick => exact tick_only _ s x
  case poll ir => exact poll_only_of_noEdge he x
  case tickpoll ir => exact (poll_only_of_noEdge he x).trans (tick_only _ s x)

/-- Settles O50, decoder by decoder. -/
theorem decodersHoldWithoutAnEdge : Obligations.DecodersHoldWithoutAnEdge := by
  intro i s t hi hr ht he
  have hA := exec_only_of_noEdge hi hr ht he .a
  have hB := exec_only_of_noEdge hi hr ht he .b
  simp only [State.only, State.mk.injEq, Regs.mk.injEq, true_and, and_true] at hA hB
  obtain ⟨hphaseA, hcntA, haccAHi, haccALo⟩ := hA
  exact ⟨hphaseA, hcntA, haccAHi, haccALo, hB⟩

/-! ### Silence releases the key and the indicator -/

/-- R66: every TCNT and TOV is what some number of TICKs leaves. -/
theorem exists_counted (r : Regs) : ∃ n, Counted n r := by
  have hlt : r.tcnt.toNat < 65536 := Config.ticks_lt r.tcnt
  cases htov : r.tov with
  | false => exact ⟨r.tcnt.toNat, by simp, by simp [htov]; omega⟩
  | true => exact ⟨65536 + r.tcnt.toNat, BitVec.eq_of_toNat_eq (by simp [Nat.mod_eq_of_lt hlt]), by simp [htov]⟩

/-- R124 to R126: what a POLL that sees no edge has released after `n` TICKs. -/
structure Released (n : Nat) (r : Regs) : Prop where
  key : 20001 ≤ n → r.key = 0
  act : 65536 ≤ n → r.act = false

/-- R124, R125: either the counter has wrapped, or it holds the whole number of TICKs. -/
theorem released_poll {n : Nat} {s : State} (h : Counted n s.regs) :
    Released n (poll Config.hw s.regs.prev s).regs := by
  rw [poll_regs_of_noEdge rfl]
  refine ⟨fun hn => if_pos ?_, fun hn => if_pos (by simpa [h.tov] using hn)⟩
  by_cases hwrap : 65536 ≤ n
  · exact .inl (by simpa [h.tov] using hwrap)
  · have htcnt : s.regs.tcnt.toNat = n := by
      rw [h.tcnt]
      exact (BitVec.toNat_ofNat n 16).trans (Nat.mod_eq_of_lt (Nat.lt_of_not_le hwrap))
    exact .inr (htcnt.symm ▸ hn)

/-- R165: a step on a POLL or TICKPOLL that sees no edge releases what is due, its own TICK counted. -/
theorem step_of_pollsAt_prev {n : Nat} {s : State} {w : Selector} {rest : List Selector} (hs : s.inputs = w :: rest)
    (hw : PollsAt s.regs.prev w) (h : Counted n s.regs) :
    ∃ t, step s = .next t ∧ Released (n + ticksIn w) t.regs := by
  obtain hd | hd := hw <;> rw [step_of_decode_ok hs hd, ticksIn, hd]
  · exact ⟨_, rfl, released_poll (s := { s with inputs := rest }) h⟩
  · exact ⟨_, rfl, released_poll (s := tick Config.hw { s with inputs := rest }) (counted_tick _ h)⟩

/-- Settles O55: whatever count the silence begins with, its TICKs come on top of that. -/
theorem silenceReleasesTheKey : Obligations.SilenceReleasesTheKey := by
  intro s before last rest hs hb hl n hn
  obtain ⟨m, hm⟩ := exists_counted s.regs
  obtain ⟨u, hrun, hin, hprev, hc⟩ := run_of_seesNoEdge hs hb hm
  obtain ⟨t, ht, hrel⟩ := step_of_pollsAt_prev hin (hprev.symm ▸ hl) hc
  have hsum : m + tickCount before + ticksIn last = m + n := by simp [n, tickCount, Nat.add_assoc]
  rw [hsum] at hrel
  exact ⟨t, (hrun 1).trans (run_one_of_step ht), hrel.key (Nat.le_add_left_of_le hn),
    fun h => hrel.act (Nat.le_add_left_of_le h)⟩

end Sys2Proof.Machine
end
